-- ==== Sys2Proof/Word.lean ====
section
/-! DEFINITION. The widths of the block (00_scope.md rules R11, R12): a byte, a 16-bit and a 32-bit unsigned integer. -/

namespace Sys2Proof

/-- A byte, 0..255 (R11). -/
abbrev Byte := BitVec 8

/-- A uint16 (R11). -/
abbrev Half := BitVec 16

/-- A uint32 (R11). -/
abbrev Long := BitVec 32

end Sys2Proof
end

