-- ==== Sys2Proof/Config.lean ====
section
/-! DEFINITION. What an implementation fixes: the constants the source gives (R6, R7), the types of the parameters it
leaves open (R8 to R10), and the free values. The parameters' default values stand in Machine/Defaults.lean. -/

namespace Sys2Proof

/-- The layout class of a sub-message id (R220). -/
inductive LayoutClass where
  | none
  | track
  | zoneMotion
  | zonePresence
  | bitmap
  | bitmapZone
  | zoneSens
  | zoneType
  | zoneCloseAway
  | lrrev
  | mount
deriving DecidableEq, Repr

/-- The two CRC tables `CRC_TAB_A` and `CRC_TAB_B`: 256 byte entries each (R9, R22). OPEN: a claim quantifies over them. -/
structure CrcTables where
  a : Vector Byte 256
  b : Vector Byte 256
deriving DecidableEq, Repr

/-- The parameters of the wire formats to which the spec gives a value by decision (R8, R10, R88; decisions D6, D7, D15,
D22). `hdrChkOnes` is `HDR_CHK_ONES`, `trackBigEndian` is `TRACK_BIG_ENDIAN`. -/
structure WireParams where
  soh : Byte
  stx : Byte
  tagUint8 : Byte
  tagUint16 : Byte
  tagUint32 : Byte
  tagVoid : Byte
  tagBool : Byte
  tagBlob1 : Byte
  tagBlob2 : Byte
  hdrChkOnes : Bool
  trackBigEndian : Bool
deriving DecidableEq, Repr

/-- `ZONE_ENUM`: one partial function from code to label per class (R226). OPEN. -/
structure ZoneEnum where
  zoneSens : List (Byte × String)
  zoneType : List (Byte × String)
  zoneCloseAway : List (Byte × String)
deriving DecidableEq, Repr

/-- All build-time parameters (R10, R281), as plain data. `submsgClass` lists the ids whose class is not `NONE` (R220);
`exclude` is the set of excluded ids (R182). -/
structure Params where
  tables : CrcTables
  wire : WireParams
  submsgClass : List (Half × LayoutClass)
  exclude : List Half
  zoneEnum : ZoneEnum
deriving DecidableEq, Repr

namespace Config

/-- `MAX_BUF_SIZE`, 128 KiB (R6). -/
abbrev maxBufSize : Nat := 131072

/-- `TAIL_KEEP`, the trailing bytes an eviction keeps (R6). -/
abbrev tailKeep : Nat := 4096

/-- `STD_DISCARD`, the bytes dropped when a check of a standard frame fails (R6). -/
abbrev stdDiscard : Nat := 3

/-- `STD_HDR`, the header bytes of a standard frame (R6). -/
abbrev stdHdr : Nat := 8

/-- `STD_TRL`, the CRC trailer's bytes (R6). -/
abbrev stdTrl : Nat := 2

/-- `XM_HDR`, the header bytes of an XMODEM block (R6). -/
abbrev xmHdr : Nat := 3

/-- `XM_TRL`, the trailing bytes of an XMODEM block (R6). -/
abbrev xmTrl : Nat := 2

/-- The target record's size in bytes (R6). -/
abbrev trackRec : Nat := 14

/-- The rows of a bit matrix (R6). -/
abbrev bitmapRows : Nat := 20

/-- `STD_MARKER`, the bytes 55 00 01 (R7; DEDUCED in the spec from its one worked example, log 12). -/
abbrev stdMarker : List Byte := [0x55, 0x00, 0x01]

/-- Free value: what `crc_lo` holds once a checksum computation is over (R21, R35, U8: any value), log 5. -/
opaque freeCrcLo : Nat → Byte

/-- Free value: what `crc_hi` holds once a checksum computation is over (R21, R35, U8: any value), log 5. -/
opaque freeCrcHi : Nat → Byte

end Config

end Sys2Proof
end

