-- ==== Sys2Proof/Machine/Defaults.lean ====
section
/-! DEFINITION. The default instantiation of the parameters: the CRC tables of 40_crc.md rule R126, and the values the
spec gives by decision to the wire parameters (R8, R10, R88). They are what State.reset holds; every claim over all states
is over all parameters. -/

namespace Sys2Proof.Machine

/-- A table entry: index 0..255 (R22). -/
def tabAt (t : Vector Byte 256) (i : Byte) : Byte :=
  t[i.toNat]'i.isLt

/-- A 256-entry table from its listing in index order, 16 entries a row (R126). -/
def tabOfRows (rows : List (List Byte)) (h : rows.flatten.length = 256) : Vector Byte 256 :=
  ⟨rows.flatten.toArray, by simpa using h⟩

/-- The first half of the listing of `CRC_TAB_A`, `T16[i] and 0xFF` (R126). -/
def crcRowsALow : List (List Byte) :=
  [
   [0x00, 0xC1, 0x81, 0x40, 0x01, 0xC0, 0x80, 0x41, 0x01, 0xC0, 0x80, 0x41, 0x00, 0xC1, 0x81, 0x40],
   [0x01, 0xC0, 0x80, 0x41, 0x00, 0xC1, 0x81, 0x40, 0x00, 0xC1, 0x81, 0x40, 0x01, 0xC0, 0x80, 0x41],
   [0x01, 0xC0, 0x80, 0x41, 0x00, 0xC1, 0x81, 0x40, 0x00, 0xC1, 0x81, 0x40, 0x01, 0xC0, 0x80, 0x41],
   [0x00, 0xC1, 0x81, 0x40, 0x01, 0xC0, 0x80, 0x41, 0x01, 0xC0, 0x80, 0x41, 0x00, 0xC1, 0x81, 0x40],
   [0x01, 0xC0, 0x80, 0x41, 0x00, 0xC1, 0x81, 0x40, 0x00, 0xC1, 0x81, 0x40, 0x01, 0xC0, 0x80, 0x41],
   [0x00, 0xC1, 0x81, 0x40, 0x01, 0xC0, 0x80, 0x41, 0x01, 0xC0, 0x80, 0x41, 0x00, 0xC1, 0x81, 0x40],
   [0x00, 0xC1, 0x81, 0x40, 0x01, 0xC0, 0x80, 0x41, 0x01, 0xC0, 0x80, 0x41, 0x00, 0xC1, 0x81, 0x40],
   [0x01, 0xC0, 0x80, 0x41, 0x00, 0xC1, 0x81, 0x40, 0x00, 0xC1, 0x81, 0x40, 0x01, 0xC0, 0x80, 0x41]]

/-- The second half of the listing of `CRC_TAB_A` (R126). -/
def crcRowsAHigh : List (List Byte) :=
  [
   [0x01, 0xC0, 0x80, 0x41, 0x00, 0xC1, 0x81, 0x40, 0x00, 0xC1, 0x81, 0x40, 0x01, 0xC0, 0x80, 0x41],
   [0x00, 0xC1, 0x81, 0x40, 0x01, 0xC0, 0x80, 0x41, 0x01, 0xC0, 0x80, 0x41, 0x00, 0xC1, 0x81, 0x40],
   [0x00, 0xC1, 0x81, 0x40, 0x01, 0xC0, 0x80, 0x41, 0x01, 0xC0, 0x80, 0x41, 0x00, 0xC1, 0x81, 0x40],
   [0x01, 0xC0, 0x80, 0x41, 0x00, 0xC1, 0x81, 0x40, 0x00, 0xC1, 0x81, 0x40, 0x01, 0xC0, 0x80, 0x41],
   [0x00, 0xC1, 0x81, 0x40, 0x01, 0xC0, 0x80, 0x41, 0x01, 0xC0, 0x80, 0x41, 0x00, 0xC1, 0x81, 0x40],
   [0x01, 0xC0, 0x80, 0x41, 0x00, 0xC1, 0x81, 0x40, 0x00, 0xC1, 0x81, 0x40, 0x01, 0xC0, 0x80, 0x41],
   [0x01, 0xC0, 0x80, 0x41, 0x00, 0xC1, 0x81, 0x40, 0x00, 0xC1, 0x81, 0x40, 0x01, 0xC0, 0x80, 0x41],
   [0x00, 0xC1, 0x81, 0x40, 0x01, 0xC0, 0x80, 0x41, 0x01, 0xC0, 0x80, 0x41, 0x00, 0xC1, 0x81, 0x40]]

/-- The first half of the listing of `CRC_TAB_B`, `T16[i] >> 8` (R126). -/
def crcRowsBLow : List (List Byte) :=
  [
   [0x00, 0xC0, 0xC1, 0x01, 0xC3, 0x03, 0x02, 0xC2, 0xC6, 0x06, 0x07, 0xC7, 0x05, 0xC5, 0xC4, 0x04],
   [0xCC, 0x0C, 0x0D, 0xCD, 0x0F, 0xCF, 0xCE, 0x0E, 0x0A, 0xCA, 0xCB, 0x0B, 0xC9, 0x09, 0x08, 0xC8],
   [0xD8, 0x18, 0x19, 0xD9, 0x1B, 0xDB, 0xDA, 0x1A, 0x1E, 0xDE, 0xDF, 0x1F, 0xDD, 0x1D, 0x1C, 0xDC],
   [0x14, 0xD4, 0xD5, 0x15, 0xD7, 0x17, 0x16, 0xD6, 0xD2, 0x12, 0x13, 0xD3, 0x11, 0xD1, 0xD0, 0x10],
   [0xF0, 0x30, 0x31, 0xF1, 0x33, 0xF3, 0xF2, 0x32, 0x36, 0xF6, 0xF7, 0x37, 0xF5, 0x35, 0x34, 0xF4],
   [0x3C, 0xFC, 0xFD, 0x3D, 0xFF, 0x3F, 0x3E, 0xFE, 0xFA, 0x3A, 0x3B, 0xFB, 0x39, 0xF9, 0xF8, 0x38],
   [0x28, 0xE8, 0xE9, 0x29, 0xEB, 0x2B, 0x2A, 0xEA, 0xEE, 0x2E, 0x2F, 0xEF, 0x2D, 0xED, 0xEC, 0x2C],
   [0xE4, 0x24, 0x25, 0xE5, 0x27, 0xE7, 0xE6, 0x26, 0x22, 0xE2, 0xE3, 0x23, 0xE1, 0x21, 0x20, 0xE0]]

/-- The second half of the listing of `CRC_TAB_B` (R126). -/
def crcRowsBHigh : List (List Byte) :=
  [
   [0xA0, 0x60, 0x61, 0xA1, 0x63, 0xA3, 0xA2, 0x62, 0x66, 0xA6, 0xA7, 0x67, 0xA5, 0x65, 0x64, 0xA4],
   [0x6C, 0xAC, 0xAD, 0x6D, 0xAF, 0x6F, 0x6E, 0xAE, 0xAA, 0x6A, 0x6B, 0xAB, 0x69, 0xA9, 0xA8, 0x68],
   [0x78, 0xB8, 0xB9, 0x79, 0xBB, 0x7B, 0x7A, 0xBA, 0xBE, 0x7E, 0x7F, 0xBF, 0x7D, 0xBD, 0xBC, 0x7C],
   [0xB4, 0x74, 0x75, 0xB5, 0x77, 0xB7, 0xB6, 0x76, 0x72, 0xB2, 0xB3, 0x73, 0xB1, 0x71, 0x70, 0xB0],
   [0x50, 0x90, 0x91, 0x51, 0x93, 0x53, 0x52, 0x92, 0x96, 0x56, 0x57, 0x97, 0x55, 0x95, 0x94, 0x54],
   [0x9C, 0x5C, 0x5D, 0x9D, 0x5F, 0x9F, 0x9E, 0x5E, 0x5A, 0x9A, 0x9B, 0x5B, 0x99, 0x59, 0x58, 0x98],
   [0x88, 0x48, 0x49, 0x89, 0x4B, 0x8B, 0x8A, 0x4A, 0x4E, 0x8E, 0x8F, 0x4F, 0x8D, 0x4D, 0x4C, 0x8C],
   [0x44, 0x84, 0x85, 0x45, 0x87, 0x47, 0x46, 0x86, 0x82, 0x42, 0x43, 0x83, 0x41, 0x81, 0x80, 0x40]]

theorem crcRowsALow_length : crcRowsALow.flatten.length = 128 := by decide +kernel

theorem crcRowsAHigh_length : crcRowsAHigh.flatten.length = 128 := by decide +kernel

theorem crcRowsBLow_length : crcRowsBLow.flatten.length = 128 := by decide +kernel

theorem crcRowsBHigh_length : crcRowsBHigh.flatten.length = 128 := by decide +kernel

/-- The default tables of R126. PRESUMED: general knowledge, no byte of the source confirms them (N1), log 7. -/
def defaultTables : CrcTables where
  a := tabOfRows (crcRowsALow ++ crcRowsAHigh) (by rw [List.flatten_append, List.length_append, crcRowsALow_length, crcRowsAHigh_length])
  b := tabOfRows (crcRowsBLow ++ crcRowsBHigh) (by rw [List.flatten_append, List.length_append, crcRowsBLow_length, crcRowsBHigh_length])

/-- One of the eight iterations that make `T16[i]` (R126). -/
def t16Iter (c : Half) : Half :=
  if c.getLsbD 0 then (c >>> 1) ^^^ 0xA001 else c >>> 1

/-- `T16[i]` of the reflected polynomial 0xA001 (R126). -/
def t16 (i : Byte) : Half :=
  Nat.repeat t16Iter 8 (i.setWidth 16)

/-- The wire parameters at the values the spec gives them: D6 (log 9), D15 (log 10), D7 (log 11), D22 (log 18). -/
def defaultWire : WireParams where
  soh := 0x01
  stx := 0x02
  tagUint8 := 0x00
  tagUint16 := 0x01
  tagUint32 := 0x02
  tagVoid := 0x03
  tagBool := 0x04
  tagBlob1 := 0x05
  tagBlob2 := 0x06
  hdrChkOnes := true
  trackBigEndian := true

/-- The parameters State.reset holds. DESIGN CHOICE for the OPEN tables of ids and labels: none listed (log 17);
`EXCLUDE` is empty by the spec's default (R10). -/
def defaultParams : Params where
  tables := defaultTables
  wire := defaultWire
  submsgClass := []
  exclude := []
  zoneEnum := { zoneSens := [], zoneType := [], zoneCloseAway := [] }

end Sys2Proof.Machine
end

