-- ==== Sys2Proof/Syntax.lean ====
section
/-! DEFINITION. The operations of the block, one constructor per row of spec/opcode_table.json in the table's order
(R96), and the data they carry. An operand is what the operation's rule names under Operands; an operand that the rule
computes from `buf` (the offset of FRM.GARBAGE, the length of FRM.STD.EMIT) is computed, not carried. -/

namespace Sys2Proof

/-- A channel id: 0 = host→sensor, 1 = sensor→host (R100). -/
inductive Chan where
  | ch0
  | ch1
deriving DecidableEq, Repr

/-- A validated frame (R25). -/
structure Frame where
  sequence : Byte
  type : Byte
  payload : List Byte
  raw : List Byte
deriving DecidableEq, Repr

/-- The two formats of a candidate (R85). -/
inductive FmtKind where
  | std
  | xm
deriving DecidableEq, Repr

/-- The two XMODEM block lengths (R83): 128 after SOH, 1024 after STX. -/
inductive BlkLen where
  | n128
  | n1024
deriving DecidableEq, Repr

/-- The attribute type tags in the source's order (R88). -/
inductive TagKind where
  | uint8
  | uint16
  | uint32
  | void
  | bool
  | blob1
  | blob2
deriving DecidableEq, Repr

/-- The result of a successful tag decode (R197). -/
inductive Generic where
  | u8 (v : Byte)
  | u16 (v : Half)
  | u32 (v : Long)
  | void
  | bool (b : Bool)
  | blob1 (bytes : List Byte) (asciiOk : Bool)
  | blob2 (bytes : List Byte)
deriving DecidableEq, Repr

/-- A target record (R93): the signed fields are exact integers. -/
structure Target where
  id : Int
  x : Int
  y : Int
  z : Int
  velocity : Int
  snr : Half
  classifier : Byte
  posture : Byte
  active : Byte
deriving DecidableEq, Repr

/-- The leaves of FRM.LOOP's decision tree (R143), with what the tree has computed on the way. -/
inductive LoopLeaf where
  | waitNocand
  | garbage (i : Nat)
  | xmWait
  | xm128
  | xm1k
  | stdWait8
  | stdBadpar
  | stdWaitlen
  | stdBadcrc
  | stdEmit (len : Nat)
deriving DecidableEq, Repr

/-- The operations (R96). -/
inductive Instr where
  | crcInit
  | crcStep (b : Byte)
  | crcOut
  | crc16 (bytes : List Byte)
  | frmAdd (ch : Chan) (chunk : List Byte)
  | frmEvict (ch : Chan)
  | frmAppend (ch : Chan) (chunk : List Byte)
  | frmLoop (ch : Chan)
  | frmSearch (ch : Chan)
  | frmWaitNocand (ch : Chan)
  | frmGarbage (ch : Chan)
  | frmXmWait (ch : Chan)
  | frmXm128 (ch : Chan)
  | frmXm1k (ch : Chan)
  | frmStdWait8 (ch : Chan)
  | frmStdBadpar (ch : Chan)
  | frmStdWaitlen (ch : Chan)
  | frmStdBadcrc (ch : Chan)
  | frmStdEmit (ch : Chan)
  | frmTake (ch : Chan)
  | extDecode (ch : Chan) (frame : Frame)
  | extSubid (p : List Byte)
  | extExclude
  | extValreq (t : Byte) (n : Half)
  | extTag (p : List Byte)
  | extUint8 (sub : Half) (v : List Byte)
  | extUint16 (sub : Half) (v : List Byte)
  | extUint32 (sub : Half) (v : List Byte)
  | extVoid (sub : Half) (v : List Byte)
  | extBool (sub : Half) (v : List Byte)
  | extBlob1 (sub : Half) (v : List Byte)
  | extBlob2 (sub : Half) (v : List Byte)
  | extRaw (sub : Half) (g : Byte) (v : List Byte)
  | extTrunc (p : List Byte)
  | extDir (ch : Chan)
  | extType (t : Byte)
  | extAck (t : Byte) (p : List Byte)
  | extTrack (t : Byte)
  | extZoneMotion
  | extZonePresence
  | extBitmap
  | extBitmapZone
  | extZoneEnum
  | extLrrev
  | extMount
  | reset
deriving DecidableEq, Repr

/-- Why a record is no operation. -/
inductive DecodeError where
  /-- the record is empty -/
  | emptyRecord
  /-- the first byte numbers no row of the table -/
  | unknownOpcode (op : Byte)
  /-- the channel is neither 0 nor 1 (U6) -/
  | badChannel (c : Byte)
  /-- too few or too many operand bytes -/
  | badOperands
  /-- a payload record whose tag byte is not the row's -/
  | badTag (g : Byte)
  /-- the operands fail `wellFormed` -/
  | illFormed
deriving DecidableEq, Repr

/-- What a line of the replay notation is (R97): a transaction, a line to skip, or one naming a channel that does not
exist (U6). -/
inductive ReplayLine where
  | txn (i : Instr)
  | skipped
  | noSuchChannel (n : Nat)
deriving DecidableEq, Repr

end Sys2Proof
end

