-- ==== Sys2Proof/Machine/Operands.lean ====
section
/-! DEFINITION. Reading operands: the arithmetic and byte-order helpers of R12, the reads of the spaces of R50, the CRC as
a function (R121 to R123), and the operand forms of the wire formats (R83 to R94). Everything here is a function of bytes and
parameters alone. -/

namespace Sys2Proof.Machine

/-! ### Arithmetic (R12) -/

/-- `be16(a, b)`: a is the most significant byte (R12). -/
def be16 (a b : Byte) : Half := a ++ b

/-- `le16(a, b)`: a is the least significant byte (R12). -/
def le16 (a b : Byte) : Half := b ++ a

/-- `be32(a, b, c, d)` (R12). -/
def be32 (a b c d : Byte) : Long := a ++ b ++ c ++ d

/-- The two bytes of a uint16, most significant first: what `be16` reads (R52). -/
def be16Bytes (h : Half) : List Byte := [h.extractLsb' 8 8, h.extractLsb' 0 8]

/-- The four bytes of a uint32, most significant first: what `be32` reads (R52). -/
def be32Bytes (w : Long) : List Byte :=
  [w.extractLsb' 24 8, w.extractLsb' 16 8, w.extractLsb' 8 8, w.extractLsb' 0 8]

/-- `not8(v)` = 255 − v (R12). -/
def not8 (v : Byte) : Byte := ~~~v

/-- `sum8(s)`: the sum of the bytes modulo 256 (R12). -/
def sum8 (s : List Byte) : Byte := s.foldl (· + ·) 0

/-! ### Reads of a byte sequence (R11, R54) -/

/-- `s[i]`. Every rule that reads an offset has first established that it lies inside `s` (R54). -/
def byteAt (s : List Byte) (i : Nat) : Byte := s.getD i 0

/-- `s[a:b]`, the bytes of indices a ≤ i < b (R11). -/
def slice (s : List Byte) (a b : Nat) : List Byte := (s.take b).drop a

/-- `MemRead(space, off, n)`, defined only when `off + n ≤ len` (R54). -/
def memRead (s : List Byte) (off n : Nat) : Option (List Byte) :=
  if off + n ≤ s.length then some (slice s off (off + n)) else none

/-! ### The CRC as a function (R121 to R123) -/

/-- The accumulator `CRC.INIT` sets: (low, high), all ones (R120). -/
def crcStart : Byte × Byte := (0xFF, 0xFF)

/-- One step on the accumulator (low, high) (R121). The index is the source's; which table feeds which half is the spec's
(D4; PRESUMED there, log 8). -/
def crcUpdate (t : CrcTables) (acc : Byte × Byte) (b : Byte) : Byte × Byte :=
  (acc.2 ^^^ tabAt t.a (acc.1 ^^^ b), tabAt t.b (acc.1 ^^^ b))

/-- `CRC16(s)` = (low, high): the accumulator after the steps of s (R123). -/
def crc16 (t : CrcTables) (s : List Byte) : Byte × Byte := s.foldl (crcUpdate t) crcStart

/-! ### Standard frame (R80 to R82) -/

/-- The declared payload length L = `be16(b[5], b[6])` (R80). -/
def declLen (buf : List Byte) : Nat := (be16 (byteAt buf 5) (byteAt buf 6)).toNat

/-- The header checksum of bytes 0–6: the complement of their sum (R81). One's complement under `HDR_CHK_ONES`, else
two's (D7, log 11). -/
def hdrChk (w : WireParams) (s : List Byte) : Byte :=
  if w.hdrChkOnes then not8 (sum8 s) else 0 - sum8 s

/-- The frame read at the head of `buf` with payload length L (R154). -/
def frameOf (buf : List Byte) (len : Nat) : Frame where
  sequence := byteAt buf 3
  type := byteAt buf 4
  payload := slice buf Config.stdHdr (Config.stdHdr + len)
  raw := slice buf 0 (Config.stdHdr + len + Config.stdTrl)

/-! ### XMODEM block (R83, R84) -/

/-- The data bytes of a block: N (R83). -/
def blkData : BlkLen → Nat
  | .n128 => 128
  | .n1024 => 1024

/-- The whole block's bytes: 3 + N + 2 (R83). -/
def blkTotal (n : BlkLen) : Nat := Config.xmHdr + blkData n + Config.xmTrl

/-- The block length a start byte announces: 128 if it is `SOH`, else 1024 (R143). -/
def blkOf (w : WireParams) (start : Byte) : BlkLen := if start = w.soh then .n128 else .n1024

/-! ### Candidates (R84, R85, R144) -/

/-- The three bytes are the standard marker (R85). -/
def isMarker (a b c : Byte) : Bool := [a, b, c] == Config.stdMarker

/-- The three bytes are a structurally valid XMODEM header (R84). -/
def isXmHeader (w : WireParams) (a b c : Byte) : Bool := (a == w.soh || a == w.stx) && b + c == 0xFF

/-- The format of the candidate at the head, if there is one; all three bytes must be present (R85). -/
def candidateAt (w : WireParams) : List Byte → Option FmtKind
  | a :: b :: c :: _ => if isMarker a b c then some .std else if isXmHeader w a b c then some .xm else none
  | _ => none

/-- `FRM.SEARCH`: the earliest candidate's offset and format (R144). -/
def search (w : WireParams) : List Byte → Option (Nat × FmtKind)
  | [] => none
  | x :: rest =>
    match candidateAt w (x :: rest) with
    | some k => some (0, k)
    | none => (search w rest).map fun r => (r.1 + 1, r.2)

/-! ### Stimulus (R98) -/

/-- The header bytes 0–6 of `FRAME(seq, type, P)` (R98). -/
def frameHead (seq type : Byte) (p : List Byte) : List Byte :=
  Config.stdMarker ++ [seq, type] ++ be16Bytes (BitVec.ofNat 16 p.length)

/-- `FRAME(seq, type, P)` (R98); it requires `len(P)` ≤ 65535. -/
def frameBytes (cfg : Params) (seq type : Byte) (p : List Byte) : List Byte :=
  let h := frameHead seq type p
  let body := h ++ [hdrChk cfg.wire h] ++ p
  let crc := crc16 cfg.tables body
  body ++ [crc.1, crc.2]

/-- `XMBLOCK(start, s, D, T)` (R98). -/
def xmBytes (start s : Byte) (d t : List Byte) : List Byte := [start, s, not8 s] ++ d ++ t

/-! ### Payload (R87 to R90, R94) -/

/-- The tag number of each kind (R88, D15). -/
def tagByte (w : WireParams) : TagKind → Byte
  | .uint8 => w.tagUint8
  | .uint16 => w.tagUint16
  | .uint32 => w.tagUint32
  | .void => w.tagVoid
  | .bool => w.tagBool
  | .blob1 => w.tagBlob1
  | .blob2 => w.tagBlob2

/-- The kind a tag byte selects, in the order of the case list of R184; none: unrecognized. -/
def tagKind (w : WireParams) (g : Byte) : Option TagKind :=
  [TagKind.uint8, .uint16, .uint32, .void, .bool, .blob1, .blob2].find? fun k => tagByte w k == g

/-- The length-prefixed bytes of a blob; none: too short (R90). -/
def blobOf (v : List Byte) : Option (List Byte) :=
  if v.length < 2 then none
  else
    let n := (be16 (byteAt v 0) (byteAt v 1)).toNat
    if v.length < 2 + n then none else some (slice v 2 (2 + n))

/-- Every byte is at most 0x7F (R90, D19). -/
def isAscii (b : List Byte) : Bool := b.all fun x => x ≤ 0x7F

/-- The generic value of kind k in the value bytes v; none: too short for the tag (R89, R90). -/
def genericOf (k : TagKind) (v : List Byte) : Option Generic :=
  match k with
  | .uint8 => if 1 ≤ v.length then some (.u8 (byteAt v 0)) else none
  | .uint16 => if 2 ≤ v.length then some (.u16 (be16 (byteAt v 0) (byteAt v 1))) else none
  | .uint32 =>
    if 4 ≤ v.length then some (.u32 (be32 (byteAt v 0) (byteAt v 1) (byteAt v 2) (byteAt v 3))) else none
  | .void => some .void
  | .bool => if 1 ≤ v.length then some (.bool (byteAt v 0 != 0)) else none
  | .blob1 => (blobOf v).map fun b => .blob1 b (isAscii b)
  | .blob2 => (blobOf v).map .blob2

/-- The payload selects EXT.RAW: its tag is unrecognized, or its value bytes are too short for the tag (R192). -/
def selectsRaw (w : WireParams) (g : Byte) (v : List Byte) : Bool :=
  match tagKind w g with
  | none => true
  | some k => (genericOf k v).isNone

/-- The bytes of a generic value that is a blob (R221, R224). -/
def blobBytes : Option Generic → Option (List Byte)
  | some (.blob1 b _) => some b
  | some (.blob2 b) => some b
  | _ => none

/-- The code of a generic value that is an unsigned integer (R227, R228). -/
def intCode : Option Generic → Option Long
  | some (.u8 v) => some (v.setWidth 32)
  | some (.u16 v) => some (v.setWidth 32)
  | some (.u32 v) => some v
  | _ => none

/-- The zone id of a zone word: w[15:8] (R91). -/
def zoneHigh (w : Half) : Byte := w.extractLsb' 8 8

/-- The low byte of a zone word: w[7:0] (R91). -/
def zoneLow (w : Half) : Byte := w.extractLsb' 0 8

/-! ### Structured layouts (R92, R93) -/

/-- A 16-bit field of a target record, in the order `TRACK_BIG_ENDIAN` says (R93, D22). -/
def trackHalf (w : WireParams) (a b : Byte) : Half := if w.trackBigEndian then be16 a b else le16 a b

/-- The target record in 14 bytes (R93). -/
def targetOf (w : WireParams) (t : List Byte) : Target where
  id := (byteAt t 0).toInt
  x := (trackHalf w (byteAt t 1) (byteAt t 2)).toInt
  y := (trackHalf w (byteAt t 3) (byteAt t 4)).toInt
  z := (trackHalf w (byteAt t 5) (byteAt t 6)).toInt
  velocity := (trackHalf w (byteAt t 7) (byteAt t 8)).toInt
  snr := trackHalf w (byteAt t 9) (byteAt t 10)
  classifier := byteAt t 11
  posture := byteAt t 12
  active := byteAt t 13

/-- The number of records extracted from a blob: the declared count, at most the complete records present (R221). -/
def targetCount (b : List Byte) : Nat := min (byteAt b 0).toNat ((b.length - 1) / Config.trackRec)

/-- The records of a blob whose byte 0 is the count (R221). -/
def targetsOf (w : WireParams) (b : List Byte) : List Target :=
  (List.range (targetCount b)).map fun i =>
    targetOf w (slice b (1 + Config.trackRec * i) (1 + Config.trackRec * i + Config.trackRec))

/-- The row words of a bit matrix (R92). -/
def rowsOf (m : List Byte) : List Half :=
  (List.range Config.bitmapRows).map fun r => be16 (byteAt m (2 * r)) (byteAt m (2 * r + 1))

/-- The cell at row r and column c, c = 0 leftmost: bit 15 − c of the row word (R92). -/
def cellAt (rows : List Half) (r c : Nat) : Bool := (rows.getD r 0).getLsbD (15 - c)

/-! ### Parameters of the extractor (R182, R220, R226 to R228) -/

/-- `SUBMSG_CLASS(id)`: NONE for an id the table lacks (R181, R220). -/
def classOf (cfg : Params) (id : Half) : LayoutClass := (cfg.submsgClass.lookup id).getD .none

/-- `EXCLUDE(id)` (R182). -/
def isExcluded (cfg : Params) (id : Half) : Bool := cfg.exclude.contains id

/-- The label `ZONE_ENUM` gives a code, if any (R226). -/
def zoneLabel (cfg : Params) (c : LayoutClass) (code : Byte) : Option String :=
  match c with
  | .zoneSens => cfg.zoneEnum.zoneSens.lookup code
  | .zoneType => cfg.zoneEnum.zoneType.lookup code
  | .zoneCloseAway => cfg.zoneEnum.zoneCloseAway.lookup code
  | .none | .track | .zoneMotion | .zonePresence | .bitmap | .bitmapZone | .lrrev | .mount => none

/-- The label of a left_right_reverse or wall_corner_mount_position code, if any (R227, R228). -/
def enumLabel (c : LayoutClass) (code : Long) : Option String :=
  match c with
  | .lrrev => if code = 0 then some "Consistent" else if code = 1 then some "Opposite" else none
  | .mount => if code = 1 then some "Wall" else none
  | .none | .track | .zoneMotion | .zonePresence | .bitmap | .bitmapZone | .zoneSens | .zoneType
  | .zoneCloseAway => none

end Sys2Proof.Machine
end

