-- ==== Sys2Proof/Machine/Flags.lean ====
section
/-! DEFINITION. Every condition the rules call a flag. Those of FRM's loop are transient: functions of `buf`, stored
nowhere (R30); `xm_gap` and `xm_dup` are stored (R27); those of EXT are fields of its output (R197). -/

namespace Sys2Proof.Machine

/-- `cand_found` (R144). -/
def candFound (w : WireParams) (buf : List Byte) : Bool := (search w buf).isSome

/-- `have8` (R156). -/
def have8 (buf : List Byte) : Bool := Config.stdHdr ≤ buf.length

/-- `par_ok`: byte 7 is the complement of the sum of bytes 0–6 (R81). -/
def parOk (w : WireParams) (buf : List Byte) : Bool := byteAt buf 7 == hdrChk w (slice buf 0 7)

/-- `have_all`: the 8 + L + 2 bytes are present (R152). -/
def haveAll (buf : List Byte) : Bool := Config.stdHdr + declLen buf + Config.stdTrl ≤ buf.length

/-- `crc_ok`: the two bytes after the payload are CRC16 of all before them, low byte first (R82, R53). -/
def crcOk (t : CrcTables) (buf : List Byte) : Bool :=
  crc16 t (slice buf 0 (Config.stdHdr + declLen buf)) ==
    (byteAt buf (Config.stdHdr + declLen buf), byteAt buf (Config.stdHdr + declLen buf + 1))

/-- The whole XMODEM block of the candidate at the head is present (R148). -/
def haveBlock (w : WireParams) (buf : List Byte) : Bool := blkTotal (blkOf w (byteAt buf 0)) ≤ buf.length

/-- `xm_dup`: the block repeats the last sequence (R147). DESIGN CHOICE of the spec (D13), log 15. -/
def xmDupFlag (last : Option Byte) (s : Byte) : Bool := last == some s

/-- `xm_gap`: the block is neither the first, nor a repeat, nor the successor of the last (R147, D13), log 15. -/
def xmGapFlag (last : Option Byte) (s : Byte) : Bool :=
  match last with
  | none => false
  | some l => l != s && l + 1 != s

/-- `ack_ok`: the status code is 0 (R94, R196). -/
def ackOk (code : Half) : Bool := code == 0

/-- `occupied`: the state is 1 (R223). -/
def occupiedFlag (state : Byte) : Bool := state == 1

end Sys2Proof.Machine
end

