-- ==== Sys2Proof/WellFormed.lean ====
section
/-! DEFINITION. The checks on an operation's operands. Most operands are bytes of which any value will do; what is checked
is the payload's length (R25, R198) and the selection of the two payload rows that have no tag of their own (R192, R193). -/

namespace Sys2Proof

open Machine

/-- A payload has 0 to 65535 bytes (R25, R198). -/
def payloadFits (n : Nat) : Bool := n ≤ 65535

/-- The operation's operands are ones the spec admits. There is no bound on a chunk (D10) nor on CRC16's bytes (R123). Whether
a payload selects EXT.RAW is judged by the tag numbers `w` of the machine it is presented to (R10, R88). DESIGN CHOICE: an
EXT.RAW whose payload those numbers decode is ill-formed (log 32). DESIGN CHOICE: a Frame that FRM never emitted, its `raw` not
matching its fields (R25, R198), is well-formed for EXT.DECODE (log 33). -/
def wellFormed (w : WireParams) : Instr → Bool
  | .crcInit | .crcStep _ | .crcOut | .crc16 _ => true
  | .frmAdd _ _ | .frmEvict _ | .frmAppend _ _ | .frmLoop _ | .frmSearch _ => true
  | .frmWaitNocand _ | .frmGarbage _ | .frmXmWait _ | .frmXm128 _ | .frmXm1k _ => true
  | .frmStdWait8 _ | .frmStdBadpar _ | .frmStdWaitlen _ | .frmStdBadcrc _ | .frmStdEmit _ => true
  | .frmTake _ => true
  | .extDecode _ f => payloadFits f.payload.length
  | .extSubid p => payloadFits p.length
  | .extExclude => true
  | .extValreq _ _ => true
  | .extTag p => payloadFits p.length
  | .extUint8 _ v => payloadFits (3 + v.length)
  | .extUint16 _ v => payloadFits (3 + v.length)
  | .extUint32 _ v => payloadFits (3 + v.length)
  | .extVoid _ v => payloadFits (3 + v.length)
  | .extBool _ v => payloadFits (3 + v.length)
  | .extBlob1 _ v => payloadFits (3 + v.length)
  | .extBlob2 _ v => payloadFits (3 + v.length)
  | .extRaw _ g v => payloadFits (3 + v.length) && selectsRaw w g v
  | .extTrunc p => p.length < 3
  | .extDir _ | .extType _ => true
  | .extAck _ p => payloadFits p.length
  | .extTrack _ | .extZoneMotion | .extZonePresence | .extBitmap | .extBitmapZone => true
  | .extZoneEnum | .extLrrev | .extMount => true
  | .reset => true

end Sys2Proof
end

