-- ==== Sys2Proof/Decode.lean ====
section
/-! DEFINITION. Which operation bytes stand for. Three decoders, since the block has three places an operation is selected
from (R101): `decode` reads the record by which the host presents an operation (the record's form is the model's own, log 2,
for the spec gives transactions and steps no bit pattern); `selectLeaf` selects FRM's next loop operation from `buf` (R143);
`selectPayload` selects the decoder of a payload from its tag (R184). Then the encoder and the replay notation (R97). -/

namespace Sys2Proof

open Machine

/-! ### Selection by the buffer (R143) -/

/-- The leaf of FRM.LOOP's decision tree that `buf` selects, the tests in the rule's order (R143, R258). -/
def selectLeaf (cfg : Params) (buf : List Byte) : LoopLeaf :=
  match search cfg.wire buf with
  | none => .waitNocand
  | some (i, kind) =>
    if 0 < i then .garbage i
    else
      match kind with
      | .xm =>
        if !haveBlock cfg.wire buf then .xmWait
        else
          match blkOf cfg.wire (byteAt buf 0) with
          | .n128 => .xm128
          | .n1024 => .xm1k
      | .std =>
        if !have8 buf then .stdWait8
        else if !parOk cfg.wire buf then .stdBadpar
        else if !haveAll buf then .stdWaitlen
        else if !crcOk cfg.tables buf then .stdBadcrc
        else .stdEmit (declLen buf)

/-- The operation a leaf is (R143). -/
def leafInstr (ch : Chan) : LoopLeaf → Instr
  | .waitNocand => .frmWaitNocand ch
  | .garbage _ => .frmGarbage ch
  | .xmWait => .frmXmWait ch
  | .xm128 => .frmXm128 ch
  | .xm1k => .frmXm1k ch
  | .stdWait8 => .frmStdWait8 ch
  | .stdBadpar => .frmStdBadpar ch
  | .stdWaitlen => .frmStdWaitlen ch
  | .stdBadcrc => .frmStdBadcrc ch
  | .stdEmit _ => .frmStdEmit ch

/-! ### Selection by the payload (R184) -/

/-- The operation for a payload whose tag selects kind k (R184). -/
def kindInstr (sub : Half) (v : List Byte) : TagKind → Instr
  | .uint8 => .extUint8 sub v
  | .uint16 => .extUint16 sub v
  | .uint32 => .extUint32 sub v
  | .void => .extVoid sub v
  | .bool => .extBool sub v
  | .blob1 => .extBlob1 sub v
  | .blob2 => .extBlob2 sub v

/-- The operation EXT.TAG dispatches a payload to (R184). -/
def selectPayload (w : WireParams) (p : List Byte) : Instr :=
  match p with
  | i1 :: i0 :: g :: v =>
    match tagKind w g with
    | some k => kindInstr (be16 i1 i0) v k
    | none => .extRaw (be16 i1 i0) g v
  | p => .extTrunc p

/-! ### The host's records (log 2) -/

/-- The channel a byte names (R100). -/
def chanOf (b : Byte) : Option Chan := if b = 0 then some .ch0 else if b = 1 then some .ch1 else none

/-- A record with no operand bytes. -/
def parseBare (args : List Byte) (i : Instr) : Except DecodeError Instr :=
  match args with
  | [] => .ok i
  | _ :: _ => .error .badOperands

/-- A record whose first operand byte is a channel. -/
def parseChan (args : List Byte) (k : Chan → List Byte → Except DecodeError Instr) : Except DecodeError Instr :=
  match args with
  | [] => .error .badOperands
  | c :: rest =>
    match chanOf c with
    | some ch => k ch rest
    | none => .error (.badChannel c)

/-- A record whose one operand is a channel. -/
def parseChanOnly (args : List Byte) (k : Chan → Instr) : Except DecodeError Instr :=
  parseChan args fun ch rest => parseBare rest (k ch)

/-- A record that is a payload with the row's tag (R87, R88). -/
def parseTagged (tag : Byte) (args : List Byte) (k : Half → List Byte → Instr) : Except DecodeError Instr :=
  match args with
  | i1 :: i0 :: g :: v => if g = tag then .ok (k (be16 i1 i0) v) else .error (.badTag g)
  | _ => .error .badOperands

/-- A frame: sequence, type, the payload's length, the payload, and the raw bytes to the record's end. DESIGN CHOICE (log 33): the
raw bytes are taken as they are, whether or not they match the other fields as R25 has it. -/
def parseFrame (args : List Byte) (k : Frame → Instr) : Except DecodeError Instr :=
  match args with
  | sq :: t :: l1 :: l0 :: rest =>
    let n := (be16 l1 l0).toNat
    if rest.length < n then .error .badOperands
    else .ok (k { sequence := sq, type := t, payload := rest.take n, raw := rest.drop n })
  | _ => .error .badOperands

/-- The operation of a record whose first byte is a row number of spec/opcode_table.json, counted from 0. The
tag of a payload row is the one the parameters `w` give its kind (R10, R88). -/
def parseRow (w : WireParams) (op : Byte) (args : List Byte) : Except DecodeError Instr :=
  match op.toNat with
  | 0 => parseBare args .crcInit
  | 1 =>
    match args with
    | [b] => .ok (.crcStep b)
    | _ => .error .badOperands
  | 2 => parseBare args .crcOut
  | 3 => .ok (.crc16 args)
  | 4 => parseChan args fun ch rest => .ok (.frmAdd ch rest)
  | 5 => parseChanOnly args .frmEvict
  | 6 => parseChan args fun ch rest => .ok (.frmAppend ch rest)
  | 7 => parseChanOnly args .frmLoop
  | 8 => parseChanOnly args .frmSearch
  | 9 => parseChanOnly args .frmWaitNocand
  | 10 => parseChanOnly args .frmGarbage
  | 11 => parseChanOnly args .frmXmWait
  | 12 => parseChanOnly args .frmXm128
  | 13 => parseChanOnly args .frmXm1k
  | 14 => parseChanOnly args .frmStdWait8
  | 15 => parseChanOnly args .frmStdBadpar
  | 16 => parseChanOnly args .frmStdWaitlen
  | 17 => parseChanOnly args .frmStdBadcrc
  | 18 => parseChanOnly args .frmStdEmit
  | 19 => parseChanOnly args .frmTake
  | 20 => parseChan args fun ch rest => parseFrame rest (.extDecode ch)
  | 21 => .ok (.extSubid args)
  | 22 => parseBare args .extExclude
  | 23 =>
    match args with
    | [t, n1, n0] => .ok (.extValreq t (be16 n1 n0))
    | _ => .error .badOperands
  | 24 => .ok (.extTag args)
  | 25 => parseTagged w.tagUint8 args .extUint8
  | 26 => parseTagged w.tagUint16 args .extUint16
  | 27 => parseTagged w.tagUint32 args .extUint32
  | 28 => parseTagged w.tagVoid args .extVoid
  | 29 => parseTagged w.tagBool args .extBool
  | 30 => parseTagged w.tagBlob1 args .extBlob1
  | 31 => parseTagged w.tagBlob2 args .extBlob2
  | 32 =>
    match args with
    | i1 :: i0 :: g :: v => .ok (.extRaw (be16 i1 i0) g v)
    | _ => .error .badOperands
  | 33 => .ok (.extTrunc args)
  | 34 => parseChanOnly args .extDir
  | 35 =>
    match args with
    | [t] => .ok (.extType t)
    | _ => .error .badOperands
  | 36 =>
    match args with
    | t :: p => .ok (.extAck t p)
    | _ => .error .badOperands
  | 37 =>
    match args with
    | [t] => .ok (.extTrack t)
    | _ => .error .badOperands
  | 38 => parseBare args .extZoneMotion
  | 39 => parseBare args .extZonePresence
  | 40 => parseBare args .extBitmap
  | 41 => parseBare args .extBitmapZone
  | 42 => parseBare args .extZoneEnum
  | 43 => parseBare args .extLrrev
  | 44 => parseBare args .extMount
  | 45 => parseBare args .reset
  | _ => .error (.unknownOpcode op)

/-- The decoder of a host record under the wire parameters `w`: total on any bytes, rejecting by name; what it accepts is
well-formed. -/
def decode (w : WireParams) (rec : List Byte) : Except DecodeError Instr :=
  match rec with
  | [] => .error .emptyRecord
  | op :: args =>
    match parseRow w op args with
    | .ok i => if wellFormed w i then .ok i else .error .illFormed
    | .error e => .error e

/-! ### The encoder -/

/-- The row number of an operation in spec/opcode_table.json, counted from 0. -/
def opcode : Instr → Byte
  | .crcInit => 0
  | .crcStep _ => 1
  | .crcOut => 2
  | .crc16 _ => 3
  | .frmAdd _ _ => 4
  | .frmEvict _ => 5
  | .frmAppend _ _ => 6
  | .frmLoop _ => 7
  | .frmSearch _ => 8
  | .frmWaitNocand _ => 9
  | .frmGarbage _ => 10
  | .frmXmWait _ => 11
  | .frmXm128 _ => 12
  | .frmXm1k _ => 13
  | .frmStdWait8 _ => 14
  | .frmStdBadpar _ => 15
  | .frmStdWaitlen _ => 16
  | .frmStdBadcrc _ => 17
  | .frmStdEmit _ => 18
  | .frmTake _ => 19
  | .extDecode _ _ => 20
  | .extSubid _ => 21
  | .extExclude => 22
  | .extValreq _ _ => 23
  | .extTag _ => 24
  | .extUint8 _ _ => 25
  | .extUint16 _ _ => 26
  | .extUint32 _ _ => 27
  | .extVoid _ _ => 28
  | .extBool _ _ => 29
  | .extBlob1 _ _ => 30
  | .extBlob2 _ _ => 31
  | .extRaw _ _ _ => 32
  | .extTrunc _ => 33
  | .extDir _ => 34
  | .extType _ => 35
  | .extAck _ _ => 36
  | .extTrack _ => 37
  | .extZoneMotion => 38
  | .extZonePresence => 39
  | .extBitmap => 40
  | .extBitmapZone => 41
  | .extZoneEnum => 42
  | .extLrrev => 43
  | .extMount => 44
  | .reset => 45

/-- The byte that names a channel (R100). -/
def chanByte : Chan → Byte
  | .ch0 => 0
  | .ch1 => 1

/-- A payload with sub-message id, tag and value bytes (R87). -/
def payloadBytes (sub : Half) (tag : Byte) (v : List Byte) : List Byte := be16Bytes sub ++ tag :: v

/-- The operand bytes of an operation's record. A payload row's are the payload as R87 lays it out, its
tag the one the parameters `w` give the row's kind. -/
def operandBytes (w : WireParams) : Instr → List Byte
  | .crcInit | .crcOut => []
  | .crcStep b => [b]
  | .crc16 s => s
  | .frmAdd ch chunk | .frmAppend ch chunk => chanByte ch :: chunk
  | .frmEvict ch | .frmLoop ch | .frmSearch ch | .frmWaitNocand ch | .frmGarbage ch => [chanByte ch]
  | .frmXmWait ch | .frmXm128 ch | .frmXm1k ch => [chanByte ch]
  | .frmStdWait8 ch | .frmStdBadpar ch | .frmStdWaitlen ch | .frmStdBadcrc ch | .frmStdEmit ch => [chanByte ch]
  | .frmTake ch | .extDir ch => [chanByte ch]
  | .extDecode ch f =>
    chanByte ch :: f.sequence :: f.type :: (be16Bytes (BitVec.ofNat 16 f.payload.length) ++ f.payload ++ f.raw)
  | .extSubid p | .extTag p | .extTrunc p => p
  | .extValreq t n => t :: be16Bytes n
  | .extUint8 sub v => payloadBytes sub w.tagUint8 v
  | .extUint16 sub v => payloadBytes sub w.tagUint16 v
  | .extUint32 sub v => payloadBytes sub w.tagUint32 v
  | .extVoid sub v => payloadBytes sub w.tagVoid v
  | .extBool sub v => payloadBytes sub w.tagBool v
  | .extBlob1 sub v => payloadBytes sub w.tagBlob1 v
  | .extBlob2 sub v => payloadBytes sub w.tagBlob2 v
  | .extRaw sub g v => payloadBytes sub g v
  | .extType t | .extTrack t => [t]
  | .extAck t p => t :: p
  | .extExclude | .extZoneMotion | .extZonePresence | .extBitmap | .extBitmapZone | .extZoneEnum => []
  | .extLrrev | .extMount | .reset => []

/-- The record of an operation: its row number, then its operand bytes. -/
def encode (w : WireParams) (i : Instr) : List Byte := opcode i :: operandBytes w i

/-! ### Encoding a generic value in a payload (R87 to R90) -/

/-- The tag kind of a generic value (R184). -/
def genericKind : Generic → TagKind
  | .u8 _ => .uint8
  | .u16 _ => .uint16
  | .u32 _ => .uint32
  | .void => .void
  | .bool _ => .bool
  | .blob1 _ _ => .blob1
  | .blob2 _ => .blob2

/-- The value bytes of a generic value (R89, R90). -/
def genericBytes : Generic → List Byte
  | .u8 v => [v]
  | .u16 v => be16Bytes v
  | .u32 v => be32Bytes v
  | .void => []
  | .bool b => [if b then 1 else 0]
  | .blob1 b _ | .blob2 b => be16Bytes (BitVec.ofNat 16 b.length) ++ b

/-! ### The table's words (R101) -/

/-- The bytes of a table pattern: the table reads the bytes on the wire as one big-endian number (R101), so the first byte
is the most significant. -/
def wireBytes (n w : Nat) : List Byte := (List.range n).map fun k => BitVec.ofNat 8 (w >>> (8 * (n - 1 - k)))

/-- The value bytes appended to a payload pattern: the table gives them no bits, so they are zeros; four of them, the most
a scalar needs (R89). -/
def zeroValue : List Byte := [0, 0, 0, 0]

/-- The operation a table pattern of whole bytes selects: three bytes that are a candidate header (R85) are the head of
`buf`, an XMODEM header completed with zeros to its block (R83); eight bytes that begin with the marker are a standard
header (R80); any other three bytes are a payload's first three (R87), four an acknowledge payload (R94), two a sub-message
id (R181), one a frame type (R195). Log 29. -/
def tableInstr (cfg : Params) (n w : Nat) : Option Instr :=
  let b := wireBytes n w
  match candidateAt cfg.wire b, n with
  | some .std, 3 => some (leafInstr .ch0 (selectLeaf cfg b))
  | some .std, 8 => some (leafInstr .ch0 (selectLeaf cfg b))
  | some .xm, 3 =>
    some (leafInstr .ch0 (selectLeaf cfg
      (b ++ List.replicate (blkTotal (blkOf cfg.wire (byteAt b 0)) - 3) 0)))
  | none, 3 => some (selectPayload cfg.wire (b ++ zeroValue))
  | _, 4 => some (.extAck 3 b)
  | _, 2 => some (.extSubid b)
  | _, 1 => some (.extType (byteAt b 0))
  | _, _ => none

/-- The bytes of `buf` a table pattern stands for, for the rows selected by `buf` (formats STD and XM, R101); none for a
payload row. -/
def tableBuf (wire : WireParams) (n w : Nat) : Option (List Byte) :=
  let b := wireBytes n w
  match candidateAt wire b, n with
  | some .std, 3 => some b
  | some .std, 8 => some b
  | some .xm, 3 => some (b ++ List.replicate (blkTotal (blkOf wire (byteAt b 0)) - 3) 0)
  | _, _ => none

/-- The host record of a table word of nbits bits; a word that selects nothing is the record of its own bytes behind an
opcode that no row has. -/
def tableRecord (cfg : Params) (nbits w : Nat) : List Byte :=
  match tableInstr cfg (nbits / 8) w with
  | some i => encode cfg.wire i
  | none => 0xFF :: wireBytes (nbits / 8) w

/-- The operation the decoder reads from a word of spec/opcode_table.json, under the default parameters
(those of State.reset). -/
def decodeTableWord (nbits w : Nat) : Option Instr :=
  match decode defaultWire (tableRecord defaultParams nbits w) with
  | .ok i => some i
  | .error _ => none

/-! ### The replay notation (R97) -/

/-- A hexadecimal digit's value. -/
def hexDigit (c : Char) : Option Nat :=
  if '0' ≤ c ∧ c ≤ '9' then some (c.toNat - '0'.toNat)
  else if 'a' ≤ c ∧ c ≤ 'f' then some (c.toNat - 'a'.toNat + 10)
  else if 'A' ≤ c ∧ c ≤ 'F' then some (c.toNat - 'A'.toNat + 10)
  else none

/-- A byte token: one or two hexadecimal digits, no prefix (R97). -/
def hexByte : List Char → Option Byte
  | [a] => (hexDigit a).map fun x => BitVec.ofNat 8 x
  | [a, b] =>
    match hexDigit a, hexDigit b with
    | some x, some y => some (BitVec.ofNat 8 (16 * x + y))
    | _, _ => none
  | _ => none

/-- A decimal integer token: one or more decimal digits. DESIGN CHOICE (log 28): a token with a sign, such as -1, is no number
here, so its line is skipped as one with a non-numeric channel (R97); the spec does not say whether the notation has signs,
and U6 refuses an integer other than 0 and 1. -/
def decNat (cs : List Char) : Option Nat :=
  if cs.isEmpty then none
  else cs.foldl (fun acc c => acc.bind fun n => if c.isDigit then some (10 * n + (c.toNat - '0'.toNat)) else none) (some 0)

/-- Whitespace between tokens. DESIGN CHOICE (log 28): R97 says "whitespace-separated" and lists no characters; the model takes
space, tab, carriage return and line feed, and no other. -/
def isSpace (c : Char) : Bool := c == ' ' || c == '\t' || c == '\r' || c == '\n'

/-- The whitespace-separated tokens of a line; `cur` is the token being read, in reverse. -/
def tokensFrom (cur : List Char) : List Char → List (List Char)
  | [] => if cur.isEmpty then [] else [cur.reverse]
  | c :: cs =>
    if isSpace c then (if cur.isEmpty then tokensFrom [] cs else cur.reverse :: tokensFrom [] cs)
    else tokensFrom (c :: cur) cs

/-- The bytes of all tokens; none if one is no byte. -/
def allHex : List (List Char) → Option (List Byte)
  | [] => some []
  | t :: ts =>
    match hexByte t, allHex ts with
    | some b, some bs => some (b :: bs)
    | _, _ => none

/-- The tokens after an optional timestamp, a leading token that begins with t (R97). -/
def dropStamp : List (List Char) → List (List Char)
  | ('t' :: _) :: ts => ts
  | ts => ts

/-- A line of the replay notation: one FRM.ADD on the named channel; a non-numeric channel token or a non-hex byte token
skips the line; a channel other than 0 or 1 names no instance (R97, U6). DESIGN CHOICE (log 28), where R97 is silent: a line with
no channel token, be it blank or a time stamp alone, is skipped; and a line with both a channel other than 0 and 1 and a non-hex
byte token is skipped, R97's skip going before U6's refusal. -/
def replayLine (line : List Char) : ReplayLine :=
  match dropStamp (tokensFrom [] line) with
  | [] => .skipped
  | c :: ts =>
    match decNat c, allHex ts with
    | some 0, some bs => .txn (.frmAdd .ch0 bs)
    | some 1, some bs => .txn (.frmAdd .ch1 bs)
    | some n, some _ => .noSuchChannel n
    | _, _ => .skipped

end Sys2Proof
end

