-- ==== Sys2Proof/Machine/State.lean ====
section
/-! DEFINITION. The machine's state as plain data: what 10_state.md lists (R20 to R36), the parameters (R281), and the
model's own fields (INVENTORY.md, log 22). -/

namespace Sys2Proof.Machine

/-- The reasons of a diagnostic event (R251). -/
inductive Reason where
  | bufferOverflow
  | garbageBeforeHeader
  | badHeaderParity
  | badCrc
deriving DecidableEq, Repr

/-- An item of the event output `ev` (R32, R250, R257). -/
inductive Event where
  | diag (ch : Chan) (bytes : List Byte) (reason : Reason)
  | xm (ch : Chan) (seq : Byte) (len : BlkLen)
deriving DecidableEq, Repr

/-- What became of a span that left `buf` (R262): the raw bytes of a pushed frame, the span of a notified XMODEM block, or
the bytes of a diagnostic event. -/
inductive Span where
  | frame (f : Frame)
  | xm (seq : Byte) (len : BlkLen) (bytes : List Byte)
  | diag (bytes : List Byte) (reason : Reason)
deriving DecidableEq, Repr

/-- One FRM instance. `buf`, `ready`, `xmLast`, `xmGap`, `xmDup`, `ev` are the spec's (R23, R24, R26, R27, R32). `rx`, every
byte appended since reset, and `hist`, what became of each span that left `buf`, are the model's own, for R60 and R262. -/
structure Frm where
  buf : List Byte
  ready : List Frame
  xmLast : Option Byte
  xmGap : Bool
  xmDup : Bool
  ev : List Event
  rx : List Byte
  hist : List Span
deriving DecidableEq, Repr

/-- Direction labels (R194). -/
inductive Dir where
  | h2s
  | s2h
deriving DecidableEq, Repr

/-- Frame type names (R195). -/
inductive TKind where
  | response
  | write
  | ack
  | readreq
  | report
  | typeUnknown
deriving DecidableEq, Repr

/-- The one value a message shows (R197). -/
inductive Value where
  | none
  | valreq
  | gen (g : Generic)
  | raw (bytes : List Byte)
  | trunc
  | ackst (ok : Bool) (code : Half)
  | zonest (zone state : Byte)
  | zoneocc (zone state : Byte) (occupied : Bool)
  | zoneenum (zone code : Byte)
  | enum (code : Long)
deriving DecidableEq, Repr

/-- An appended structured detail (R197). -/
inductive Detail where
  | track (count : Byte) (records : List Target)
  | bitmap (zone : Option Byte) (rows : List Half)
deriving DecidableEq, Repr

/-- The output record ExtOut (R197). `dir`, `tkind` and `sequence` are none until the decode has set them (log 21). -/
structure ExtOut where
  suppressed : Bool
  subIdValid : Bool
  subId : Half
  cls : LayoutClass
  dir : Option Dir
  tkind : Option TKind
  sequence : Option Byte
  generic : Option Generic
  value : Value
  detail : List Detail
deriving DecidableEq, Repr

/-- The empty output record a decode starts from (R180). -/
def ExtOut.empty : ExtOut where
  suppressed := false
  subIdValid := false
  subId := 0
  cls := .none
  dir := none
  tkind := none
  sequence := none
  generic := none
  value := .none
  detail := []

/-- What the latest operation returned (R122, R123, R144, R155, R180, R182). -/
inductive Ret where
  | nothing
  | crc (lo hi : Byte)
  | cand (r : Option (Nat × FmtKind))
  | frames (fs : List Frame)
  | excluded (b : Bool)
  | ext (o : ExtOut)
deriving DecidableEq, Repr

/-- Faults: there are none. Nothing in this block traps (R95), and 93_implementation_defined.md treats no behaviour as a
fault or a stuck state. Nobody raises one; that is safe, for no claim can rest on a fault. -/
inductive Fault where
deriving DecidableEq, Repr

/-- Why a step has no meaning. -/
inductive Refusal where
  /-- Raised by exec for an instruction without a meaning yet; no arm of this model does. Safe. -/
  | notModelled (mnemonic : String)
  /-- Raised by step for a record that stands for no operation, such as one naming a channel other than 0 and 1 (U6). Safe:
  the model stops. -/
  | badRecord (e : DecodeError)
  /-- Raised by a meaning of a step inside FRM.ADD when the host presents it in a state whose buffer does not select it: the
  rule's precondition or condition fails, and the spec says nothing of it then (R141 to R156, log 1). Safe: the model stops. -/
  | notSelected (mnemonic : String)
deriving DecidableEq, Repr

/-- The machine. `cfg` is configuration, read-only (R281, log 26); `crcLo` and `crcHi` are R21's pair; `frm0` and `frm1` are
the two instances (R20); `ext`, `ret`, `host`, `freeCount` are the model's own (log 22, log 2, log 5). -/
structure State where
  cfg : Params
  crcLo : Byte
  crcHi : Byte
  frm0 : Frm
  frm1 : Frm
  ext : ExtOut
  ret : Ret
  host : List (List Byte)
  freeCount : Nat
deriving DecidableEq, Repr

/-- An instance after reset (R35, R280). -/
def Frm.reset : Frm where
  buf := []
  ready := []
  xmLast := none
  xmGap := false
  xmDup := false
  ev := []
  rx := []
  hist := []

/-- The machine after reset (R35, R280, R281). The spec gives `crcLo`, `crcHi` no reset value (DESIGN CHOICE 0, log 4); the
parameters hold their defaults (log 7, log 9, log 10, log 11, log 17, log 18); no transaction is pending (log 3). -/
def State.reset : State where
  cfg := defaultParams
  crcLo := 0
  crcHi := 0
  frm0 := Frm.reset
  frm1 := Frm.reset
  ext := ExtOut.empty
  ret := .nothing
  host := []
  freeCount := 0

end Sys2Proof.Machine
end

