-- ==== Sys2Proof/Machine/Ops.lean ====
section
/-! DEFINITION. The named operations every meaning is written over: access to an instance, BufAppend and BufConsume (R54),
raising a diagnostic event (R250, R259), the XMODEM action (R147), pushing a frame (R154), and one iteration of the
resynchronization loop (R143). -/

namespace Sys2Proof.Machine

/-! ### Access to the instances (R20) -/

/-- The instance of a channel. -/
def State.frm (s : State) : Chan → Frm
  | .ch0 => s.frm0
  | .ch1 => s.frm1

/-- Replace the instance of a channel. -/
def State.setFrm (s : State) (ch : Chan) (f : Frm) : State :=
  match ch with
  | .ch0 => { s with frm0 := f }
  | .ch1 => { s with frm1 := f }

/-- The operation returns a value to the host. -/
def State.returning (s : State) (r : Ret) : State := { s with ret := r }

/-- Replace the output record of EXT. -/
def State.setExt (s : State) (o : ExtOut) : State := { s with ext := o }

/-! ### The CRC accumulator (R21) -/

/-- Write both halves of the accumulator. -/
def State.setCrc (s : State) (acc : Byte × Byte) : State := { s with crcLo := acc.1, crcHi := acc.2 }

/-- The accumulator's halves, (low, high). -/
def State.crcPair (s : State) : Byte × Byte := (s.crcLo, s.crcHi)

/-- A CRC16 computation is over: the accumulator's value does not survive it and is unspecified (R21, R35, U8), a free
value (log 5). -/
def State.crcDone (s : State) : State :=
  { s with
    crcLo := Config.freeCrcLo s.freeCount
    crcHi := Config.freeCrcHi s.freeCount
    freeCount := s.freeCount + 1 }

/-! ### The buffer of an instance (R54) -/

/-- `BufAppend(chunk)` (R54, R142). -/
def Frm.append (f : Frm) (chunk : List Byte) : Frm := { f with buf := f.buf ++ chunk, rx := f.rx ++ chunk }

/-- `BufConsume(n)`, defined for n ≤ len(buf) (R54); the span that leaves is accounted for in the history (R262). -/
def Frm.consume (f : Frm) (n : Nat) (span : Span) : Frm := { f with buf := f.buf.drop n, hist := f.hist ++ [span] }

/-! ### Diagnostic events: what takes the place of exceptions (R250 to R262) -/

/-- Raise a diagnostic event for the first n bytes of `buf` and consume them: the event is recorded before the bytes leave,
nothing is saved, no mode or vector exists, and the operation goes on (R250, R259, R260). -/
def Frm.raise (f : Frm) (ch : Chan) (n : Nat) (reason : Reason) : Frm :=
  Frm.consume { f with ev := f.ev ++ [.diag ch (f.buf.take n) reason] } n (.diag (f.buf.take n) reason)

/-- The numeric code of a reason (R251). -/
def reasonCode : Reason → BitVec 2
  | .bufferOverflow => 0
  | .garbageBeforeHeader => 1
  | .badHeaderParity => 2
  | .badCrc => 3

/-! ### XMODEM blocks and frames -/

/-- `xm_block(N)`: compare, update, notify, consume, in that order (R147). -/
def Frm.xmBlock (f : Frm) (ch : Chan) (n : BlkLen) : Frm :=
  let s := byteAt f.buf 1
  Frm.consume
    { f with
      xmDup := xmDupFlag f.xmLast s
      xmGap := xmGapFlag f.xmLast s
      xmLast := some s
      ev := f.ev ++ [.xm ch s n] }
    (blkTotal n) (.xm s n (f.buf.take (blkTotal n)))

/-- Push the frame at the head of `buf`, of payload length L, and consume it (R154). -/
def Frm.push (f : Frm) (len : Nat) : Frm :=
  let fr := frameOf f.buf len
  Frm.consume { f with ready := f.ready ++ [fr] } (Config.stdHdr + len + Config.stdTrl) (.frame fr)

/-- Discard all but the trailing 4096 bytes (R141). -/
def Frm.evict (f : Frm) (ch : Chan) : Frm := f.raise ch (f.buf.length - Config.tailKeep) .bufferOverflow

/-! ### The loop (R143) -/

/-- The leaf the instance's buffer selects (R143). -/
def State.leaf (s : State) (ch : Chan) : LoopLeaf := selectLeaf s.cfg (s.frm ch).buf

/-- FRM.GARBAGE's effect (R146). -/
def State.garbage (s : State) (ch : Chan) (i : Nat) : State :=
  s.setFrm ch ((s.frm ch).raise ch i .garbageBeforeHeader)

/-- `xm_block(N)` on an instance (R147). -/
def State.xmBlock (s : State) (ch : Chan) (n : BlkLen) : State := s.setFrm ch ((s.frm ch).xmBlock ch n)

/-- FRM.STD.BADPAR's effect: the marker is dropped (R151). -/
def State.badpar (s : State) (ch : Chan) : State :=
  s.setFrm ch ((s.frm ch).raise ch Config.stdDiscard .badHeaderParity)

/-- FRM.STD.BADCRC's effect: a CRC16 computation, and the marker is dropped (R124, R153). -/
def State.badcrc (s : State) (ch : Chan) : State :=
  (s.setFrm ch ((s.frm ch).raise ch Config.stdDiscard .badCrc)).crcDone

/-- FRM.STD.EMIT's effect: a CRC16 computation, and the frame is pushed (R124, R154). -/
def State.emit (s : State) (ch : Chan) (len : Nat) : State := (s.setFrm ch ((s.frm ch).push len)).crcDone

/-- One iteration of the loop: the next state, or none where the leaf is a wait (R143). -/
def State.loopStep (s : State) (ch : Chan) : Option State :=
  match s.leaf ch with
  | .waitNocand => none
  | .garbage i => some (s.garbage ch i)
  | .xmWait => none
  | .xm128 => some (s.xmBlock ch .n128)
  | .xm1k => some (s.xmBlock ch .n1024)
  | .stdWait8 => none
  | .stdBadpar => some (s.badpar ch)
  | .stdWaitlen => none
  | .stdBadcrc => some (s.badcrc ch)
  | .stdEmit len => some (s.emit ch len)

/-- Iterate until a wait, at most `fuel` times. -/
def State.loopFor : Nat → State → Chan → State
  | 0, s, _ => s
  | fuel + 1, s, ch =>
    match s.loopStep ch with
    | none => s
    | some s' => State.loopFor fuel s' ch

/-- FRM.LOOP's effect: iterate until a wait. No more than len(buf) + 1 iterations are needed (R157). -/
def State.loop (s : State) (ch : Chan) : State := s.loopFor ((s.frm ch).buf.length + 1) ch

/-- The eviction test of FRM.ADD: strictly over the bound, before the append (R140, D9, log 13). -/
def State.overBound (s : State) (ch : Chan) : Bool := Config.maxBufSize < (s.frm ch).buf.length

/-- FRM.EVICT's effect (R141). -/
def State.evict (s : State) (ch : Chan) : State := s.setFrm ch ((s.frm ch).evict ch)

/-- FRM.APPEND's effect (R142). -/
def State.append (s : State) (ch : Chan) (chunk : List Byte) : State := s.setFrm ch ((s.frm ch).append chunk)

/-- FRM.ADD's effect: evict if over the bound, append, loop (R140). The eviction test is made once per call, and the loop's
decisions are `selectLeaf` of `buf` alone, so a division into chunks shows only through an eviction (R159). -/
def State.add (s : State) (ch : Chan) (chunk : List Byte) : State :=
  let s1 := if s.overBound ch then s.evict ch else s
  (s1.append ch chunk).loop ch

/-! ### Placing a table word (Step.lean's withFetchWord) -/

/-- The state in which the operation of a table word is selected: for the rows selected by `buf`, channel 0's buffer holds
the word's bytes (log 3). -/
def State.placeWord (s : State) (nbits w : Nat) : State :=
  match tableBuf s.cfg.wire (nbits / 8) w with
  | some b => { s with frm0 := { s.frm0 with buf := b, rx := s.frm0.rx ++ b } }
  | none => s

end Sys2Proof.Machine
end

