-- ==== Sys2Proof/Machine/Crc.lean ====
section
/-! DEFINITION. The CRC operations (40_crc.md). -/

namespace Sys2Proof.Machine

/-- CRC.INIT (R120): both halves all ones; a computation in progress is discarded. -/
def execCrcInit (s : State) : Host.Outcome State Fault Refusal :=
  .next ((s.setCrc crcStart).returning .nothing)

/-- CRC.STEP(b) (R121). -/
def execCrcStep (b : Byte) (s : State) : Host.Outcome State Fault Refusal :=
  .next ((s.setCrc (crcUpdate s.cfg.tables s.crcPair b)).returning .nothing)

/-- CRC.OUT (R122): returns (low, high), the accumulator unchanged. -/
def execCrcOut (s : State) : Host.Outcome State Fault Refusal :=
  .next (s.returning (.crc s.crcLo s.crcHi))

/-- CRC16(s) (R123): returns the pair; the computation is then over (R21, log 5). -/
def execCrc16 (bytes : List Byte) (s : State) : Host.Outcome State Fault Refusal :=
  let acc := crc16 s.cfg.tables bytes
  .next (s.crcDone.returning (.crc acc.1 acc.2))

end Sys2Proof.Machine
end

