-- ==== Sys2Proof/Machine/Framer.lean ====
section
/-! DEFINITION. The frame synchronizer operations (41_framer.md). A step of FRM.ADD that the host presents by itself runs
if the state selects it, and is refused by name where its rule's condition fails (log 1). -/

namespace Sys2Proof.Machine

/-- FRM.ADD(chunk) (R140). -/
def execFrmAdd (ch : Chan) (chunk : List Byte) (s : State) : Host.Outcome State Fault Refusal :=
  .next ((s.add ch chunk).returning .nothing)

/-- FRM.EVICT, precondition len(buf) > MAX_BUF_SIZE (R141). -/
def execFrmEvict (ch : Chan) (s : State) : Host.Outcome State Fault Refusal :=
  if s.overBound ch then .next ((s.evict ch).returning .nothing) else .refused (.notSelected "FRM.EVICT")

/-- FRM.APPEND(chunk) (R142). -/
def execFrmAppend (ch : Chan) (chunk : List Byte) (s : State) : Host.Outcome State Fault Refusal :=
  .next ((s.append ch chunk).returning .nothing)

/-- FRM.LOOP (R143). -/
def execFrmLoop (ch : Chan) (s : State) : Host.Outcome State Fault Refusal :=
  .next ((s.loop ch).returning .nothing)

/-- FRM.SEARCH (R144): returns the earliest candidate. -/
def execFrmSearch (ch : Chan) (s : State) : Host.Outcome State Fault Refusal :=
  .next (s.returning (.cand (search s.cfg.wire (s.frm ch).buf)))

/-- FRM.WAIT.NOCAND (R145): the loop waits; all state is kept. -/
def execFrmWaitNocand (ch : Chan) (s : State) : Host.Outcome State Fault Refusal :=
  if s.leaf ch = .waitNocand then .next (s.returning .nothing) else .refused (.notSelected "FRM.WAIT.NOCAND")

/-- FRM.GARBAGE(i), i the offset of the earliest candidate, i > 0 (R146). -/
def execFrmGarbage (ch : Chan) (s : State) : Host.Outcome State Fault Refusal :=
  match s.leaf ch with
  | .garbage i => .next ((s.garbage ch i).returning .nothing)
  | _ => .refused (.notSelected "FRM.GARBAGE")

/-- FRM.XM.WAIT (R148): the loop waits; nothing is consumed. -/
def execFrmXmWait (ch : Chan) (s : State) : Host.Outcome State Fault Refusal :=
  if s.leaf ch = .xmWait then .next (s.returning .nothing) else .refused (.notSelected "FRM.XM.WAIT")

/-- FRM.XM128 (R149). -/
def execFrmXm128 (ch : Chan) (s : State) : Host.Outcome State Fault Refusal :=
  if s.leaf ch = .xm128 then .next ((s.xmBlock ch .n128).returning .nothing)
  else .refused (.notSelected "FRM.XM128")

/-- FRM.XM1K (R150). -/
def execFrmXm1k (ch : Chan) (s : State) : Host.Outcome State Fault Refusal :=
  if s.leaf ch = .xm1k then .next ((s.xmBlock ch .n1024).returning .nothing)
  else .refused (.notSelected "FRM.XM1K")

/-- FRM.STD.WAIT8 (R156): the loop waits. -/
def execFrmStdWait8 (ch : Chan) (s : State) : Host.Outcome State Fault Refusal :=
  if s.leaf ch = .stdWait8 then .next (s.returning .nothing) else .refused (.notSelected "FRM.STD.WAIT8")

/-- FRM.STD.BADPAR (R151). -/
def execFrmStdBadpar (ch : Chan) (s : State) : Host.Outcome State Fault Refusal :=
  if s.leaf ch = .stdBadpar then .next ((s.badpar ch).returning .nothing)
  else .refused (.notSelected "FRM.STD.BADPAR")

/-- FRM.STD.WAITLEN (R152): the loop waits. -/
def execFrmStdWaitlen (ch : Chan) (s : State) : Host.Outcome State Fault Refusal :=
  if s.leaf ch = .stdWaitlen then .next (s.returning .nothing) else .refused (.notSelected "FRM.STD.WAITLEN")

/-- FRM.STD.BADCRC (R153). -/
def execFrmStdBadcrc (ch : Chan) (s : State) : Host.Outcome State Fault Refusal :=
  if s.leaf ch = .stdBadcrc then .next ((s.badcrc ch).returning .nothing)
  else .refused (.notSelected "FRM.STD.BADCRC")

/-- FRM.STD.EMIT(L), L = be16(buf[5], buf[6]) (R154). -/
def execFrmStdEmit (ch : Chan) (s : State) : Host.Outcome State Fault Refusal :=
  match s.leaf ch with
  | .stdEmit len => .next ((s.emit ch len).returning .nothing)
  | _ => .refused (.notSelected "FRM.STD.EMIT")

/-- FRM.TAKE (R155): returns all elements of `ready`, oldest first, and empties it. -/
def execFrmTake (ch : Chan) (s : State) : Host.Outcome State Fault Refusal :=
  .next ((s.setFrm ch { s.frm ch with ready := [] }).returning (.frames (s.frm ch).ready))

end Sys2Proof.Machine
end

