-- ==== Sys2Proof/Machine/Reset.lean ====
section
/-! DEFINITION. RESET (70_reset_and_hazards.md). -/

namespace Sys2Proof.Machine

/-- RESET (R280): both instances as after construction; `crcLo`, `crcHi` are not reset; nothing is emitted for the bytes and
frames discarded. The source has no reset of a running instance; the effect is the rule's pseudocode (U16, log 24). -/
def execReset (s : State) : Host.Outcome State Fault Refusal :=
  .next (((s.setFrm .ch0 Frm.reset).setFrm .ch1 Frm.reset).returning .nothing)

end Sys2Proof.Machine
end

