-- ==== Sys2Proof/Machine/Extractor.lean ====
section
/-! DEFINITION. The generic field extractor (42_extractor.md). Each step is a function on the output record; a meaning
applies it to the record State holds, and EXT.DECODE runs them all in the order of R180. -/

namespace Sys2Proof.Machine

/-! ### Identification -/

/-- EXT.SUBID (R181). -/
def outSubid (cfg : Params) (p : List Byte) (o : ExtOut) : ExtOut :=
  if 2 ≤ p.length then
    { o with
      subId := be16 (byteAt p 0) (byteAt p 1)
      subIdValid := true
      cls := classOf cfg (be16 (byteAt p 0) (byteAt p 1)) }
  else { o with subId := 0, subIdValid := false, cls := .none }

/-- What EXT.EXCLUDE returns (R182). -/
def excludes (cfg : Params) (o : ExtOut) : Bool := o.subIdValid && isExcluded cfg o.subId

/-- EXT.EXCLUDE's flag (R182). -/
def outExclude (cfg : Params) (o : ExtOut) : ExtOut := { o with suppressed := excludes cfg o }

/-- EXT.VALREQ (R183). -/
def outValreq (t : Byte) (n : Nat) (o : ExtOut) : ExtOut :=
  if t = 1 ∧ n = 2 then { o with value := .valreq } else o

/-! ### Fallbacks and generic decoders -/

/-- EXT.RAW: the payload from offset 2, the tag byte included (R192). -/
def outRaw (g : Byte) (v : List Byte) (o : ExtOut) : ExtOut := { o with generic := none, value := .raw (g :: v) }

/-- EXT.TRUNC: VALREQ stands against it (R193, D17). -/
def outTrunc (o : ExtOut) : ExtOut :=
  { o with generic := none, value := if o.value = .valreq then .valreq else .trunc }

/-- A decoder that succeeds sets `generic` and `value` to its result; one that finds v too short performs EXT.RAW (R184). -/
def outGeneric (k : TagKind) (g : Byte) (v : List Byte) (o : ExtOut) : ExtOut :=
  match genericOf k v with
  | some r => { o with generic := some r, value := .gen r }
  | none => outRaw g v o

/-- EXT.UINT8 (R185). -/
def outUint8 (g : Byte) (v : List Byte) (o : ExtOut) : ExtOut := outGeneric .uint8 g v o

/-- EXT.UINT16 (R186). -/
def outUint16 (g : Byte) (v : List Byte) (o : ExtOut) : ExtOut := outGeneric .uint16 g v o

/-- EXT.UINT32 (R187). -/
def outUint32 (g : Byte) (v : List Byte) (o : ExtOut) : ExtOut := outGeneric .uint32 g v o

/-- EXT.VOID (R188). -/
def outVoid (g : Byte) (v : List Byte) (o : ExtOut) : ExtOut := outGeneric .void g v o

/-- EXT.BOOL (R189). -/
def outBool (g : Byte) (v : List Byte) (o : ExtOut) : ExtOut := outGeneric .bool g v o

/-- EXT.BLOB1 (R190). -/
def outBlob1 (g : Byte) (v : List Byte) (o : ExtOut) : ExtOut := outGeneric .blob1 g v o

/-- EXT.BLOB2 (R191). -/
def outBlob2 (g : Byte) (v : List Byte) (o : ExtOut) : ExtOut := outGeneric .blob2 g v o

/-- The decoder a kind selects (R184). -/
def outKind : TagKind → Byte → List Byte → ExtOut → ExtOut
  | .uint8 => outUint8
  | .uint16 => outUint16
  | .uint32 => outUint32
  | .void => outVoid
  | .bool => outBool
  | .blob1 => outBlob1
  | .blob2 => outBlob2

/-- EXT.TAG (R184). -/
def outTag (cfg : Params) (p : List Byte) (o : ExtOut) : ExtOut :=
  if p.length < 3 then outTrunc o
  else
    match tagKind cfg.wire (byteAt p 2) with
    | some k => outKind k (byteAt p 2) (p.drop 3) o
    | none => outRaw (byteAt p 2) (p.drop 3) o

/-! ### Classification and acknowledge -/

/-- The direction of a channel (R194). -/
def dirOf : Chan → Dir
  | .ch0 => .h2s
  | .ch1 => .s2h

/-- EXT.DIR (R194). -/
def outDir (ch : Chan) (o : ExtOut) : ExtOut := { o with dir := some (dirOf ch) }

/-- The name of a frame type (R86, R195). -/
def tkindOf (t : Byte) : TKind :=
  if t = 1 then .response
  else if t = 2 then .write
  else if t = 3 then .ack
  else if t = 4 then .readreq
  else if t = 5 then .report
  else .typeUnknown

/-- EXT.TYPE (R195). -/
def outType (t : Byte) (o : ExtOut) : ExtOut := { o with tkind := some (tkindOf t) }

/-- EXT.ACK (R196). -/
def outAck (t : Byte) (p : List Byte) (o : ExtOut) : ExtOut :=
  if t = 3 ∧ 4 ≤ p.length then
    { o with value := .ackst (ackOk (be16 (byteAt p 2) (byteAt p 3))) (be16 (byteAt p 2) (byteAt p 3)) }
  else o

/-! ### Meanings -/

/-- An EXT step is done: its record stands, nothing is returned. -/
def State.extStep (s : State) (o : ExtOut) : State := (s.setExt o).returning .nothing

/-- EXT.SUBID (R181). -/
def execExtSubid (p : List Byte) (s : State) : Host.Outcome State Fault Refusal :=
  .next (s.extStep (outSubid s.cfg p s.ext))

/-- EXT.EXCLUDE (R182): returns whether the message is excluded. -/
def execExtExclude (s : State) : Host.Outcome State Fault Refusal :=
  .next ((s.setExt (outExclude s.cfg s.ext)).returning (.excluded (excludes s.cfg s.ext)))

/-- EXT.VALREQ (R183). -/
def execExtValreq (t : Byte) (n : Half) (s : State) : Host.Outcome State Fault Refusal :=
  .next (s.extStep (outValreq t n.toNat s.ext))

/-- EXT.TAG (R184). -/
def execExtTag (p : List Byte) (s : State) : Host.Outcome State Fault Refusal :=
  .next (s.extStep (outTag s.cfg p s.ext))

/-- EXT.UINT8 (R185). The sub-message id in the payload is EXT.SUBID's to read. -/
def execExtUint8 (_sub : Half) (v : List Byte) (s : State) : Host.Outcome State Fault Refusal :=
  .next (s.extStep (outUint8 s.cfg.wire.tagUint8 v s.ext))

/-- EXT.UINT16 (R186). -/
def execExtUint16 (_sub : Half) (v : List Byte) (s : State) : Host.Outcome State Fault Refusal :=
  .next (s.extStep (outUint16 s.cfg.wire.tagUint16 v s.ext))

/-- EXT.UINT32 (R187). -/
def execExtUint32 (_sub : Half) (v : List Byte) (s : State) : Host.Outcome State Fault Refusal :=
  .next (s.extStep (outUint32 s.cfg.wire.tagUint32 v s.ext))

/-- EXT.VOID (R188). -/
def execExtVoid (_sub : Half) (v : List Byte) (s : State) : Host.Outcome State Fault Refusal :=
  .next (s.extStep (outVoid s.cfg.wire.tagVoid v s.ext))

/-- EXT.BOOL (R189). -/
def execExtBool (_sub : Half) (v : List Byte) (s : State) : Host.Outcome State Fault Refusal :=
  .next (s.extStep (outBool s.cfg.wire.tagBool v s.ext))

/-- EXT.BLOB1 (R190). -/
def execExtBlob1 (_sub : Half) (v : List Byte) (s : State) : Host.Outcome State Fault Refusal :=
  .next (s.extStep (outBlob1 s.cfg.wire.tagBlob1 v s.ext))

/-- EXT.BLOB2 (R191). -/
def execExtBlob2 (_sub : Half) (v : List Byte) (s : State) : Host.Outcome State Fault Refusal :=
  .next (s.extStep (outBlob2 s.cfg.wire.tagBlob2 v s.ext))

/-- EXT.RAW (R192). -/
def execExtRaw (_sub : Half) (g : Byte) (v : List Byte) (s : State) : Host.Outcome State Fault Refusal :=
  .next (s.extStep (outRaw g v s.ext))

/-- EXT.TRUNC (R193). The bytes of a payload this short are not shown. -/
def execExtTrunc (_p : List Byte) (s : State) : Host.Outcome State Fault Refusal :=
  .next (s.extStep (outTrunc s.ext))

/-- EXT.DIR (R194). -/
def execExtDir (ch : Chan) (s : State) : Host.Outcome State Fault Refusal :=
  .next (s.extStep (outDir ch s.ext))

/-- EXT.TYPE (R195). -/
def execExtType (t : Byte) (s : State) : Host.Outcome State Fault Refusal :=
  .next (s.extStep (outType t s.ext))

/-- EXT.ACK (R196). -/
def execExtAck (t : Byte) (p : List Byte) (s : State) : Host.Outcome State Fault Refusal :=
  .next (s.extStep (outAck t p s.ext))

end Sys2Proof.Machine
end

