-- ==== Sys2Proof/Machine/Structured.lean ====
section
/-! DEFINITION. The structured layouts (43_structured.md) and the whole of EXT.DECODE (R180), which runs them. -/

namespace Sys2Proof.Machine

/-- EXT.TRACK (R221): needs type 5, class TRACK and a blob of at least one byte; `value` is not changed. -/
def outTrack (cfg : Params) (t : Byte) (o : ExtOut) : ExtOut :=
  match blobBytes o.generic with
  | some b =>
    if t = 5 ∧ o.cls = .track ∧ 1 ≤ b.length then
      { o with detail := o.detail ++ [.track (byteAt b 0) (targetsOf cfg.wire b)] }
    else o
  | none => o

/-- EXT.ZONE.MOTION (R222). -/
def outZoneMotion (o : ExtOut) : ExtOut :=
  match o.cls, o.generic with
  | .zoneMotion, some (.u16 w) => { o with value := .zonest (zoneHigh w) (zoneLow w) }
  | _, _ => o

/-- EXT.ZONE.PRESENCE (R223). -/
def outZonePresence (o : ExtOut) : ExtOut :=
  match o.cls, o.generic with
  | .zonePresence, some (.u16 w) =>
    { o with value := .zoneocc (zoneHigh w) (zoneLow w) (occupiedFlag (zoneLow w)) }
  | _, _ => o

/-- EXT.BITMAP (R224): a blob of exactly 40 bytes. -/
def outBitmap (o : ExtOut) : ExtOut :=
  match blobBytes o.generic with
  | some b =>
    if o.cls = .bitmap ∧ b.length = 2 * Config.bitmapRows then
      { o with detail := o.detail ++ [.bitmap none (rowsOf b)] }
    else o
  | none => o

/-- EXT.BITMAP.ZONE (R225): a zone byte, then the matrix, 41 bytes in all. -/
def outBitmapZone (o : ExtOut) : ExtOut :=
  match blobBytes o.generic with
  | some b =>
    if o.cls = .bitmapZone ∧ b.length = 1 + 2 * Config.bitmapRows then
      { o with detail := o.detail ++ [.bitmap (some (byteAt b 0)) (rowsOf (b.drop 1))] }
    else o
  | none => o

/-- The classes EXT.ZONE.ENUM serves (R226). -/
def isZoneEnum (c : LayoutClass) : Bool := c = .zoneSens || c = .zoneType || c = .zoneCloseAway

/-- EXT.ZONE.ENUM (R226). -/
def outZoneEnum (o : ExtOut) : ExtOut :=
  match isZoneEnum o.cls, o.generic with
  | true, some (.u16 w) => { o with value := .zoneenum (zoneHigh w) (zoneLow w) }
  | _, _ => o

/-- EXT.LRREV (R227). -/
def outLrrev (o : ExtOut) : ExtOut :=
  match o.cls, intCode o.generic with
  | .lrrev, some v => { o with value := .enum v }
  | _, _ => o

/-- EXT.MOUNT (R228). -/
def outMount (o : ExtOut) : ExtOut :=
  match o.cls, intCode o.generic with
  | .mount, some v => { o with value := .enum v }
  | _, _ => o

/-- The label of the value a record shows, where a table gives one (R226 to R228). -/
def valueLabel (cfg : Params) (o : ExtOut) : Option String :=
  match o.value with
  | .zoneenum _ code => zoneLabel cfg o.cls code
  | .enum code => enumLabel o.cls code
  | _ => none

/-- The structured overrides in their order of precedence (R180, R229). -/
def outOverrides (cfg : Params) (t : Byte) (o : ExtOut) : ExtOut :=
  outMount (outLrrev (outZoneEnum (outBitmapZone (outBitmap (outZonePresence (outZoneMotion (outTrack cfg t o)))))))

/-- The steps after EXT.EXCLUDE (R180). -/
def outBody (cfg : Params) (ch : Chan) (f : Frame) (o : ExtOut) : ExtOut :=
  let o := outValreq f.type f.payload.length o
  let o := outTag cfg f.payload o
  let o := outType f.type (outDir ch o)
  let o := outOverrides cfg f.type o
  let o := outAck f.type f.payload o
  { o with sequence := some f.sequence }

/-- EXT.DECODE(channel, frame): an excluded message returns at once (R180, R182). -/
def decodeOut (cfg : Params) (ch : Chan) (f : Frame) : ExtOut :=
  let o := outExclude cfg (outSubid cfg f.payload .empty)
  if o.suppressed then o else outBody cfg ch f o

/-! ### Meanings -/

/-- EXT.DECODE (R180): returns the record. -/
def execExtDecode (ch : Chan) (frame : Frame) (s : State) : Host.Outcome State Fault Refusal :=
  .next ((s.setExt (decodeOut s.cfg ch frame)).returning (.ext (decodeOut s.cfg ch frame)))

/-- EXT.TRACK (R221). -/
def execExtTrack (t : Byte) (s : State) : Host.Outcome State Fault Refusal :=
  .next (s.extStep (outTrack s.cfg t s.ext))

/-- EXT.ZONE.MOTION (R222). -/
def execExtZoneMotion (s : State) : Host.Outcome State Fault Refusal :=
  .next (s.extStep (outZoneMotion s.ext))

/-- EXT.ZONE.PRESENCE (R223). -/
def execExtZonePresence (s : State) : Host.Outcome State Fault Refusal :=
  .next (s.extStep (outZonePresence s.ext))

/-- EXT.BITMAP (R224). -/
def execExtBitmap (s : State) : Host.Outcome State Fault Refusal :=
  .next (s.extStep (outBitmap s.ext))

/-- EXT.BITMAP.ZONE (R225). -/
def execExtBitmapZone (s : State) : Host.Outcome State Fault Refusal :=
  .next (s.extStep (outBitmapZone s.ext))

/-- EXT.ZONE.ENUM (R226). -/
def execExtZoneEnum (s : State) : Host.Outcome State Fault Refusal :=
  .next (s.extStep (outZoneEnum s.ext))

/-- EXT.LRREV (R227). -/
def execExtLrrev (s : State) : Host.Outcome State Fault Refusal :=
  .next (s.extStep (outLrrev s.ext))

/-- EXT.MOUNT (R228). -/
def execExtMount (s : State) : Host.Outcome State Fault Refusal :=
  .next (s.extStep (outMount s.ext))

end Sys2Proof.Machine
end

