-- ==== Sys2Proof/Machine/Dispatch.lean ====
section
/-! DEFINITION. Dispatch: one arm per operation, each a direct call of its meaning. -/

namespace Sys2Proof.Machine

/-- The meaning of each operation (R96). -/
def exec (i : Instr) (s : State) : Host.Outcome State Fault Refusal :=
  match i with
  | .crcInit => Sys2Proof.Machine.execCrcInit s
  | .crcStep b => Sys2Proof.Machine.execCrcStep b s
  | .crcOut => Sys2Proof.Machine.execCrcOut s
  | .crc16 bytes => Sys2Proof.Machine.execCrc16 bytes s
  | .frmAdd ch chunk => Sys2Proof.Machine.execFrmAdd ch chunk s
  | .frmEvict ch => Sys2Proof.Machine.execFrmEvict ch s
  | .frmAppend ch chunk => Sys2Proof.Machine.execFrmAppend ch chunk s
  | .frmLoop ch => Sys2Proof.Machine.execFrmLoop ch s
  | .frmSearch ch => Sys2Proof.Machine.execFrmSearch ch s
  | .frmWaitNocand ch => Sys2Proof.Machine.execFrmWaitNocand ch s
  | .frmGarbage ch => Sys2Proof.Machine.execFrmGarbage ch s
  | .frmXmWait ch => Sys2Proof.Machine.execFrmXmWait ch s
  | .frmXm128 ch => Sys2Proof.Machine.execFrmXm128 ch s
  | .frmXm1k ch => Sys2Proof.Machine.execFrmXm1k ch s
  | .frmStdWait8 ch => Sys2Proof.Machine.execFrmStdWait8 ch s
  | .frmStdBadpar ch => Sys2Proof.Machine.execFrmStdBadpar ch s
  | .frmStdWaitlen ch => Sys2Proof.Machine.execFrmStdWaitlen ch s
  | .frmStdBadcrc ch => Sys2Proof.Machine.execFrmStdBadcrc ch s
  | .frmStdEmit ch => Sys2Proof.Machine.execFrmStdEmit ch s
  | .frmTake ch => Sys2Proof.Machine.execFrmTake ch s
  | .extDecode ch frame => Sys2Proof.Machine.execExtDecode ch frame s
  | .extSubid p => Sys2Proof.Machine.execExtSubid p s
  | .extExclude => Sys2Proof.Machine.execExtExclude s
  | .extValreq t n => Sys2Proof.Machine.execExtValreq t n s
  | .extTag p => Sys2Proof.Machine.execExtTag p s
  | .extUint8 sub v => Sys2Proof.Machine.execExtUint8 sub v s
  | .extUint16 sub v => Sys2Proof.Machine.execExtUint16 sub v s
  | .extUint32 sub v => Sys2Proof.Machine.execExtUint32 sub v s
  | .extVoid sub v => Sys2Proof.Machine.execExtVoid sub v s
  | .extBool sub v => Sys2Proof.Machine.execExtBool sub v s
  | .extBlob1 sub v => Sys2Proof.Machine.execExtBlob1 sub v s
  | .extBlob2 sub v => Sys2Proof.Machine.execExtBlob2 sub v s
  | .extRaw sub g v => Sys2Proof.Machine.execExtRaw sub g v s
  | .extTrunc p => Sys2Proof.Machine.execExtTrunc p s
  | .extDir ch => Sys2Proof.Machine.execExtDir ch s
  | .extType t => Sys2Proof.Machine.execExtType t s
  | .extAck t p => Sys2Proof.Machine.execExtAck t p s
  | .extTrack t => Sys2Proof.Machine.execExtTrack t s
  | .extZoneMotion => Sys2Proof.Machine.execExtZoneMotion s
  | .extZonePresence => Sys2Proof.Machine.execExtZonePresence s
  | .extBitmap => Sys2Proof.Machine.execExtBitmap s
  | .extBitmapZone => Sys2Proof.Machine.execExtBitmapZone s
  | .extZoneEnum => Sys2Proof.Machine.execExtZoneEnum s
  | .extLrrev => Sys2Proof.Machine.execExtLrrev s
  | .extMount => Sys2Proof.Machine.execExtMount s
  | .reset => Sys2Proof.Machine.execReset s

end Sys2Proof.Machine
end

