-- ==== Sys2Proof/Machine/Step.lean ====
section
/-! DEFINITION. One step: the host's next transaction is decoded and run (R15, R18, R281). -/

namespace Sys2Proof.Machine

/-- One transaction, atomic (R18). With none pending the block is idle and nothing changes (R28, R295). A record that stands
for no operation is refused by name. -/
def step (s : State) : Host.Outcome State Fault Refusal :=
  match s.host with
  | [] => .next s
  | rec :: rest =>
    match decode s.cfg.wire rec with
    | .ok i => exec i { s with host := rest }
    | .error e => .refused (.badRecord e)

/-- The state in which the very next step runs the operation of a table word: its record is the host's next one, and the
bytes that select it, if `buf` selects it, are in channel 0's buffer (log 3). -/
def State.withFetchWord (s : State) (nbits w : Nat) : State :=
  { s.placeWord nbits w with host := tableRecord s.cfg nbits w :: s.host }

end Sys2Proof.Machine
end

