-- ==== Sys2Proof/Safety.lean ====
section
/-! DEFINITION. What counts as a safe run, in the terms claims use: the invariants of R36, the accounting of R262, what a
validated frame is (R25, R80 to R82), and running several operations in a row. -/

namespace Sys2Proof.Machine

/-! ### Spans that left the buffer (R262) -/

/-- The bytes of a span. -/
def Span.bytes : Span → List Byte
  | .frame f => f.raw
  | .xm _ _ bytes => bytes
  | .diag bytes _ => bytes

/-- The event a span was reported by, if any: a pushed frame raises none (R154). -/
def Span.event? (ch : Chan) : Span → Option Event
  | .frame _ => none
  | .xm q n _ => some (.xm ch q n)
  | .diag bytes r => some (.diag ch bytes r)

/-- The frame a span was pushed as, if any. -/
def Span.frame? : Span → Option Frame
  | .frame f => some f
  | .xm _ _ _ => none
  | .diag _ _ => none

/-! ### Validated frames (R25, R36 (b), R80 to R82) -/

/-- The raw bytes hold the marker, a matching header checksum and a matching CRC, and the fields are read from them. -/
structure ValidFrame (cfg : Params) (f : Frame) : Prop where
  length : f.raw.length = f.payload.length + 10
  marker : slice f.raw 0 3 = Config.stdMarker
  sequence : byteAt f.raw 3 = f.sequence
  type : byteAt f.raw 4 = f.type
  declared : declLen f.raw = f.payload.length
  payload : slice f.raw 8 (8 + f.payload.length) = f.payload
  header : byteAt f.raw 7 = hdrChk cfg.wire (slice f.raw 0 7)
  crc : crc16 cfg.tables (slice f.raw 0 (8 + f.payload.length)) =
    (byteAt f.raw (8 + f.payload.length), byteAt f.raw (9 + f.payload.length))

/-- What a span must be by its disposition: a frame is validated (R154); an XMODEM span is a whole block whose byte 1 is
the notified sequence (R147); a failed check drops the marker (R151, R153); an overflow drops at least the bytes over the
bound less the tail (R141); garbage is never empty (R146). -/
def SpanOk (cfg : Params) : Span → Prop
  | .frame f => ValidFrame cfg f
  | .xm q n bytes => bytes.length = blkTotal n ∧ byteAt bytes 1 = q
  | .diag bytes .bufferOverflow => Config.maxBufSize - Config.tailKeep < bytes.length
  | .diag bytes .garbageBeforeHeader => bytes ≠ []
  | .diag bytes .badHeaderParity => bytes = Config.stdMarker
  | .diag bytes .badCrc => bytes = Config.stdMarker

/-! ### The invariant (R36, R262, R27) -/

/-- What holds of an instance in every state reachable from reset. -/
structure FrmInv (cfg : Params) (ch : Chan) (f : Frm) : Prop where
  /-- every byte ever appended is in `buf` or in exactly one span, in stream order (R262) -/
  accounted : f.rx = f.hist.flatMap Span.bytes ++ f.buf
  /-- the event output is what the spans were reported by, in loop order (R32, R250) -/
  events : f.ev = f.hist.filterMap (Span.event? ch)
  /-- the frames not yet taken are the latest pushed, in arrival order (R36 (a)) -/
  fifo : f.ready <:+ f.hist.filterMap Span.frame?
  /-- every span is what its disposition says; so every frame is validated (R36 (b)) -/
  spans : ∀ sp ∈ f.hist, SpanOk cfg sp
  /-- a block is never both a gap and a duplicate, and before the first block both flags are 0 (R147) -/
  flags : ¬(f.xmGap = true ∧ f.xmDup = true) ∧ (f.xmLast = none → f.xmGap = false ∧ f.xmDup = false)

/-- The machine's invariant: both instances'. -/
def Inv (s : State) : Prop := ∀ ch, FrmInv s.cfg ch (s.frm ch)

/-! ### Running operations in a row -/

/-- Run the operations one after another, stopping at the first fault or refusal. -/
def execAll : List Instr → State → Host.Outcome State Fault Refusal
  | [], s => .next s
  | i :: is, s =>
    match exec i s with
    | .next t => execAll is t
    | .fault r => .fault r
    | .refused r => .refused r

/-! ### Terms for statements -/

/-- The other channel. -/
def otherChan : Chan → Chan
  | .ch0 => .ch1
  | .ch1 => .ch0

/-- The leaves at which the loop waits (R143). -/
def isWait : LoopLeaf → Bool
  | .waitNocand | .xmWait | .stdWait8 | .stdWaitlen => true
  | .garbage _ | .xm128 | .xm1k | .stdBadpar | .stdBadcrc | .stdEmit _ => false

/-- The instance an operation acts on, if it acts on one. -/
def instrChan : Instr → Option Chan
  | .frmAdd ch _ | .frmEvict ch | .frmAppend ch _ | .frmLoop ch | .frmSearch ch => some ch
  | .frmWaitNocand ch | .frmGarbage ch | .frmXmWait ch | .frmXm128 ch | .frmXm1k ch => some ch
  | .frmStdWait8 ch | .frmStdBadpar ch | .frmStdWaitlen ch | .frmStdBadcrc ch | .frmStdEmit ch => some ch
  | .frmTake ch => some ch
  | .crcInit | .crcStep _ | .crcOut | .crc16 _ => none
  | .extDecode _ _ | .extSubid _ | .extExclude | .extValreq _ _ | .extTag _ => none
  | .extUint8 _ _ | .extUint16 _ _ | .extUint32 _ _ | .extVoid _ _ | .extBool _ _ => none
  | .extBlob1 _ _ | .extBlob2 _ _ | .extRaw _ _ _ | .extTrunc _ | .extDir _ | .extType _ => none
  | .extAck _ _ | .extTrack _ | .extZoneMotion | .extZonePresence | .extBitmap | .extBitmapZone => none
  | .extZoneEnum | .extLrrev | .extMount | .reset => none

/-- The operations of the extractor. -/
def isExt : Instr → Bool
  | .extDecode _ _ | .extSubid _ | .extExclude | .extValreq _ _ | .extTag _ => true
  | .extUint8 _ _ | .extUint16 _ _ | .extUint32 _ _ | .extVoid _ _ | .extBool _ _ => true
  | .extBlob1 _ _ | .extBlob2 _ _ | .extRaw _ _ _ | .extTrunc _ | .extDir _ | .extType _ => true
  | .extAck _ _ | .extTrack _ | .extZoneMotion | .extZonePresence | .extBitmap | .extBitmapZone => true
  | .extZoneEnum | .extLrrev | .extMount => true
  | .crcInit | .crcStep _ | .crcOut | .crc16 _ => false
  | .frmAdd _ _ | .frmEvict _ | .frmAppend _ _ | .frmLoop _ | .frmSearch _ => false
  | .frmWaitNocand _ | .frmGarbage _ | .frmXmWait _ | .frmXm128 _ | .frmXm1k _ => false
  | .frmStdWait8 _ | .frmStdBadpar _ | .frmStdWaitlen _ | .frmStdBadcrc _ | .frmStdEmit _ => false
  | .frmTake _ | .reset => false

/-- The bytes of a target record whose fields lie in their ranges (R93), big-endian. -/
def targetBytes (t : Target) : List Byte :=
  BitVec.ofInt 8 t.id :: (be16Bytes (BitVec.ofInt 16 t.x) ++ be16Bytes (BitVec.ofInt 16 t.y)
    ++ be16Bytes (BitVec.ofInt 16 t.z) ++ be16Bytes (BitVec.ofInt 16 t.velocity) ++ be16Bytes t.snr
    ++ [t.classifier, t.posture, t.active])

/-- An int of N bits: −2^(N−1) to 2^(N−1) − 1 (R11). -/
def fitsInt (n : Nat) (x : Int) : Prop := -(2 ^ (n - 1) : Int) ≤ x ∧ x < 2 ^ (n - 1)

/-- A target record's signed fields lie in their ranges (R93). -/
def TargetFits (t : Target) : Prop :=
  fitsInt 8 t.id ∧ fitsInt 16 t.x ∧ fitsInt 16 t.y ∧ fitsInt 16 t.z ∧ fitsInt 16 t.velocity

/-- A generic value its encoding can hold: a blob of at most 65530 bytes (with id, tag and prefix, a payload of at most
65535), its ASCII flag the one EXT computes (R90). -/
def GenericFits : Generic → Prop
  | .u8 _ | .u16 _ | .u32 _ | .void | .bool _ => True
  | .blob1 b ok => b.length ≤ 65530 ∧ ok = isAscii b
  | .blob2 b => b.length ≤ 65530

/-- Offset i of `buf` is a candidate of format k: all three bytes present, and the marker (R85), or an XMODEM header (R84). -/
def IsCandidate (w : WireParams) (buf : List Byte) (i : Nat) (k : FmtKind) : Prop :=
  i + 2 < buf.length ∧
    match k with
    | .std => byteAt buf i = 0x55 ∧ byteAt buf (i + 1) = 0x00 ∧ byteAt buf (i + 2) = 0x01
    | .xm => (byteAt buf i = w.soh ∨ byteAt buf i = w.stx) ∧ byteAt buf (i + 1) + byteAt buf (i + 2) = 0xFF

/-- The state with the XMODEM bookkeeping of both instances blanked (R26, R27). -/
def blindXm (s : State) : State :=
  { s with
    frm0 := { s.frm0 with xmLast := none, xmGap := false, xmDup := false }
    frm1 := { s.frm1 with xmLast := none, xmGap := false, xmDup := false } }

/-- The steps EXT.DECODE runs after EXT.EXCLUDE, in order (R180). -/
def decodeSteps (ch : Chan) (f : Frame) : List Instr :=
  [.extValreq f.type (BitVec.ofNat 16 f.payload.length), .extTag f.payload, .extDir ch, .extType f.type,
    .extTrack f.type, .extZoneMotion, .extZonePresence, .extBitmap, .extBitmapZone, .extZoneEnum, .extLrrev,
    .extMount, .extAck f.type f.payload]

/-- The operations that never run a CRC step, so leave the accumulator alone (R21, R124). -/
def keepsCrc : Instr → Bool
  | .crcInit | .crcStep _ | .crc16 _ => false
  | .frmAdd _ _ | .frmLoop _ | .frmStdBadcrc _ | .frmStdEmit _ => false
  | .crcOut => true
  | .frmEvict _ | .frmAppend _ _ | .frmSearch _ | .frmWaitNocand _ | .frmGarbage _ => true
  | .frmXmWait _ | .frmXm128 _ | .frmXm1k _ | .frmStdWait8 _ | .frmStdBadpar _ | .frmStdWaitlen _ => true
  | .frmTake _ => true
  | .extDecode _ _ | .extSubid _ | .extExclude | .extValreq _ _ | .extTag _ => true
  | .extUint8 _ _ | .extUint16 _ _ | .extUint32 _ _ | .extVoid _ _ | .extBool _ _ => true
  | .extBlob1 _ _ | .extBlob2 _ _ | .extRaw _ _ _ | .extTrunc _ | .extDir _ | .extType _ => true
  | .extAck _ _ | .extTrack _ | .extZoneMotion | .extZonePresence | .extBitmap | .extBitmapZone => true
  | .extZoneEnum | .extLrrev | .extMount | .reset => true

end Sys2Proof.Machine
end

