-- ==== Sys2Proof/Certificates/Slice0/Obligations.lean ====
section
/-! DEFINITION. The statements for the provers. A next state is written as the state before with the fields the operation
writes; every field not written there is unchanged, which is the statement's frame. An instance's `rx` and `hist` and the
fields `ret`, `ext`, `host`, `freeCount` are the model's own (log 2, log 5, log 22). -/

open Sys2Proof Sys2Proof.Machine

/-! ### Records, words and steps -/

/-- The decoder reads back every record the encoder writes, with every operand at every value the encoding admits, under every
assignment of the wire parameters (R10). The record form is the model's choice (log 2, log 32); the payload rows' operand bytes
are the payload of R87 and R88. -/
def Obligations.DecodeReadsEncoded : Prop :=
  ∀ (w : WireParams) (i : Instr), wellFormed w i = true → decode w (encode w i) = .ok i

/-- A record that decodes has one meaning only: it is the record the encoder writes for that operation, which is
well-formed. The record form is the model's choice (log 2, log 32). -/
def Obligations.DecodedRecordIsEncoded : Prop :=
  ∀ (w : WireParams) (r : List Byte) (i : Instr), decode w r = .ok i → encode w i = r ∧ wellFormed w i = true

/-- A step runs the operation of the host's next record, read under the machine's own parameters, on the state without that
record. The queue of records is the model's choice (log 2). -/
def Obligations.StepRunsDecodedRecord : Prop :=
  ∀ (s : State) (r : List Byte) (rest : List (List Byte)) (i : Instr),
    s.host = r :: rest → decode s.cfg.wire r = .ok i → step s = exec i { s with host := rest }

/-- With no transaction pending a step changes nothing; a record that stands for no operation is refused with the decoder's
reason. Every record of a row that carries a channel (rows 4 to 20 and 34, counted from 0) is such a record if its channel byte
is neither 0 nor 1 (U6), whatever follows it. Model's choice (log 2, log 23). -/
def Obligations.StepIdlesOrRefusesRecord : Prop :=
  (∀ s : State, s.host = [] → step s = .next s) ∧
  (∀ (s : State) (r : List Byte) (rest : List (List Byte)) (e : DecodeError),
    s.host = r :: rest → decode s.cfg.wire r = .error e → step s = .refused (.badRecord e)) ∧
  (∀ (s : State) (op c : Byte) (args : List Byte) (rest : List (List Byte)),
    (4 ≤ op.toNat ∧ op.toNat ≤ 20) ∨ op.toNat = 34 → 1 < c.toNat → s.host = (op :: c :: args) :: rest →
    step s = .refused (.badRecord (.badChannel c)))

/-- Words written out from the spec's patterns decode to their rows: the standard marker 55 00 01 alone (R80, FRM.STD.WAIT8),
SOH 05 FA and STX 00 FF (R83), and the payload 01 02 with each of the seven tags (R87, R88). The zero value bytes behind a
payload word are the model's choice (log 29); the tag and start byte numbers are the spec's decisions D6 and D15. -/
def Obligations.SpecWordsDecode : Prop :=
  decodeTableWord 24 0x550001 = some (.frmStdWait8 .ch0) ∧
  decodeTableWord 24 0x0105FA = some (.frmXm128 .ch0) ∧
  decodeTableWord 24 0x0200FF = some (.frmXm1k .ch0) ∧
  decodeTableWord 24 0x010200 = some (.extUint8 0x0102 [0, 0, 0, 0]) ∧
  decodeTableWord 24 0x010201 = some (.extUint16 0x0102 [0, 0, 0, 0]) ∧
  decodeTableWord 24 0x010202 = some (.extUint32 0x0102 [0, 0, 0, 0]) ∧
  decodeTableWord 24 0x010203 = some (.extVoid 0x0102 [0, 0, 0, 0]) ∧
  decodeTableWord 24 0x010204 = some (.extBool 0x0102 [0, 0, 0, 0]) ∧
  decodeTableWord 24 0x010205 = some (.extBlob1 0x0102 [0, 0, 0, 0]) ∧
  decodeTableWord 24 0x010206 = some (.extBlob2 0x0102 [0, 0, 0, 0]) ∧
  decodeTableWord 24 0x010209 = some (.extRaw 0x0102 0x09 [0, 0, 0, 0])

/-! ### CRC (40_crc.md) -/

/-- CRC.INIT sets both halves of the accumulator to 0xFF and nothing else (R120). -/
def Obligations.CrcInitSetsAllOnes : Prop :=
  ∀ s : State, exec .crcInit s = .next { s with crcLo := 0xFF, crcHi := 0xFF, ret := .nothing }

/-- CRC.STEP(b): both tables are read at crc_lo xor b; the new low half is the old high half xor table A's byte, the new high
half is table B's byte. Which table feeds which half is the spec's decision D4 (log 8). -/
def Obligations.CrcStepUpdatesAccumulator : Prop :=
  ∀ (s : State) (b : Byte),
    exec (.crcStep b) s = .next { s with
      crcLo := s.crcHi ^^^ tabAt s.cfg.tables.a (s.crcLo ^^^ b)
      crcHi := tabAt s.cfg.tables.b (s.crcLo ^^^ b)
      ret := .nothing }

/-- CRC.OUT returns the accumulator, low byte first, and changes nothing. That no final xor is applied is D4 (log 8). -/
def Obligations.CrcOutReturnsPair : Prop :=
  ∀ s : State, exec .crcOut s = .next { s with ret := .crc s.crcLo s.crcHi }

/-- CRC16(s) is CRC.INIT, the steps of s in order and CRC.OUT, from any state and for any length: both return one pair that
depends on s and the tables alone (R123). Nothing but the accumulator changes, whose value after the call is free (R21,
log 5). -/
def Obligations.Crc16RunsInitStepsOut : Prop :=
  ∀ (s : State) (bytes : List Byte),
    let p := crc16 s.cfg.tables bytes
    execAll (.crcInit :: (bytes.map Instr.crcStep ++ [.crcOut])) s =
      .next { s with crcLo := p.1, crcHi := p.2, ret := .crc p.1 p.2 } ∧
    ∃ (lo hi : Byte) (n : Nat),
      exec (.crc16 bytes) s = .next { s with crcLo := lo, crcHi := hi, freeCount := n, ret := .crc p.1 p.2 }

/-- CRC.INIT, the steps of a, the steps of b and CRC.OUT, presented one after another, return what CRC16(a ++ b) returns; so the
engine may be fed byte by byte (the spec derives it: R125). -/
def Obligations.CrcStepsAreIncremental : Prop :=
  ∀ (s : State) (a b : List Byte), ∃ (u v w x : State) (lo hi : Byte),
    execAll (.crcInit :: a.map Instr.crcStep) s = .next u ∧ execAll (b.map Instr.crcStep) u = .next v ∧
    exec .crcOut v = .next w ∧ w.ret = .crc lo hi ∧
    exec (.crc16 (a ++ b)) s = .next x ∧ x.ret = .crc lo hi

/-- Over tables that are the two halves of a 256-entry table T16, CRC.STEP is the 16-bit update
crc <- (crc >> 8) xor T16[(crc xor b) and 0xFF] on crc = 256·crc_hi + crc_lo (the form R121 gives, general knowledge: D4). -/
def Obligations.CrcStepIsSixteenBitUpdate : Prop :=
  ∀ (s : State) (t : Byte → Half),
    (∀ i : Byte, tabAt s.cfg.tables.a i = (t i).extractLsb' 0 8 ∧ tabAt s.cfg.tables.b i = (t i).extractLsb' 8 8) →
    ∀ b : Byte, ∃ u : State, exec (.crcStep b) s = .next u ∧
      be16 u.crcHi u.crcLo =
        ((be16 s.crcHi s.crcLo) >>> 8) ^^^ t ((be16 s.crcHi s.crcLo ^^^ b.setWidth 16).extractLsb' 0 8)

/-- The default tables are the halves of T16 of the reflected polynomial 0xA001, and the default engine gives the published
check value of "123456789" (the default is general knowledge: D3, log 7). -/
def Obligations.DefaultTablesMatchPolynomial : Prop :=
  (∀ i : Byte, tabAt defaultTables.a i = (t16 i).extractLsb' 0 8 ∧ tabAt defaultTables.b i = (t16 i).extractLsb' 8 8) ∧
  crc16 defaultTables [0x31, 0x32, 0x33, 0x34, 0x35, 0x36, 0x37, 0x38, 0x39] = (0x37, 0x4B)

/-- If the pair of tables is injective on indices, two inputs that differ only in their last byte have different CRCs. It rests
on the update equations of D4 (log 8). -/
def Obligations.LastByteChangesCrc : Prop :=
  ∀ s : State,
    (∀ i j : Byte, tabAt s.cfg.tables.a i = tabAt s.cfg.tables.a j →
      tabAt s.cfg.tables.b i = tabAt s.cfg.tables.b j → i = j) →
    ∀ (bytes : List Byte) (b b' : Byte), b ≠ b' →
      ∃ (u u' : State) (lo hi lo' hi' : Byte),
        exec (.crc16 (bytes ++ [b])) s = .next u ∧ u.ret = .crc lo hi ∧
        exec (.crc16 (bytes ++ [b'])) s = .next u' ∧ u'.ret = .crc lo' hi' ∧ (lo, hi) ≠ (lo', hi')

/-- Only the operations that run CRC steps write the accumulator (R21, R124): every other operation leaves it as it was, RESET
too (log 24). -/
def Obligations.CrcPairWrittenOnlyByCrcSteps : Prop :=
  ∀ (i : Instr) (s t : State), keepsCrc i = true → exec i s = .next t → t.crcLo = s.crcLo ∧ t.crcHi = s.crcHi

/-! ### FRM: the host transactions and the steps of FRM.ADD (41_framer.md) -/

/-- FRM.EVICT over the bound: one buffer_overflow event with the evicted span, then exactly the last 4096 bytes are kept.
The strict bound and the exact tail are the spec's decision D9 (log 13). -/
def Obligations.EvictKeepsTail : Prop :=
  ∀ (s : State) (ch : Chan), 131072 < (s.frm ch).buf.length →
    let f := s.frm ch
    let n := f.buf.length - 4096
    exec (.frmEvict ch) s = .next ({ s with ret := .nothing }.setFrm ch { f with
      buf := f.buf.drop n
      ev := f.ev ++ [Event.diag ch (f.buf.take n) .bufferOverflow]
      hist := f.hist ++ [Span.diag (f.buf.take n) .bufferOverflow] }) ∧
    (f.buf.drop n).length = 4096

/-- FRM.APPEND puts the chunk at the tail of the buffer, with no check (R142). -/
def Obligations.AppendExtendsBuffer : Prop :=
  ∀ (s : State) (ch : Chan) (chunk : List Byte),
    exec (.frmAppend ch chunk) s = .next ({ s with ret := .nothing }.setFrm ch { s.frm ch with
      buf := (s.frm ch).buf ++ chunk
      rx := (s.frm ch).rx ++ chunk })

/-- FRM.ADD is FRM.EVICT if the buffer is over its bound before the append, then FRM.APPEND, then FRM.LOOP. The strict test
is D9 (log 13). -/
def Obligations.AddRunsEvictAppendLoop : Prop :=
  ∀ (s : State) (ch : Chan) (chunk : List Byte),
    exec (.frmAdd ch chunk) s =
      execAll ((if 131072 < (s.frm ch).buf.length then [Instr.frmEvict ch] else []) ++
        [.frmAppend ch chunk, .frmLoop ch]) s

/-- FRM.ADD never fails, whatever the bytes and the state; the other instance, the parameters and EXT's record are
untouched, and the chunk is appended to the bytes received. -/
def Obligations.AddNeverFails : Prop :=
  ∀ (s : State) (ch : Chan) (chunk : List Byte), ∃ t : State,
    exec (.frmAdd ch chunk) s = .next t ∧
    t.frm (otherChan ch) = s.frm (otherChan ch) ∧ t.cfg = s.cfg ∧ t.ext = s.ext ∧ t.host = s.host ∧
    t.ret = .nothing ∧ (t.frm ch).rx = (s.frm ch).rx ++ chunk

/-- FRM.LOOP repeats the selected operation until a wait (R143): at a wait it changes nothing; at any other leaf it does that
leaf's operation and then FRM.LOOP again. It always ends, at a wait, with a buffer that is a suffix of the one before (the spec
derives it: R157). -/
def Obligations.LoopEndsAtWait : Prop :=
  (∀ (s : State) (ch : Chan), isWait (s.leaf ch) = true → exec (.frmLoop ch) s = .next { s with ret := .nothing }) ∧
  (∀ (s t : State) (ch : Chan), isWait (s.leaf ch) = false → exec (leafInstr ch (s.leaf ch)) s = .next t →
    exec (.frmLoop ch) s = exec (.frmLoop ch) t) ∧
  ∀ (s : State) (ch : Chan), ∃ t : State,
    exec (.frmLoop ch) s = .next t ∧ isWait (t.leaf ch) = true ∧
    (t.frm ch).buf <:+ (s.frm ch).buf ∧ (t.frm ch).rx = (s.frm ch).rx ∧
    t.frm (otherChan ch) = s.frm (otherChan ch) ∧ t.cfg = s.cfg ∧ t.ext = s.ext ∧ t.host = s.host

/-- Every iteration that does not wait removes bytes that are present, at least one: the garbage, a block of 133 or 1029, the
marker's 3, or a frame's 10 + L (the spec derives it: R157). -/
def Obligations.IterationConsumesBytes : Prop :=
  ∀ (s t : State) (ch : Chan), s.loopStep ch = some t →
    let n := match s.leaf ch with
      | .garbage i => i
      | .xm128 => 133
      | .xm1k => 1029
      | .stdBadpar => 3
      | .stdBadcrc => 3
      | .stdEmit len => 10 + len
      | _ => 0
    0 < n ∧ n ≤ (s.frm ch).buf.length ∧ (t.frm ch).buf = (s.frm ch).buf.drop n

/-- One iteration of the loop does what the operation selected by the buffer does; it waits exactly where that operation is
a wait, which changes nothing (R143, R258; `leaf` is the model's reading of R143's decision tree). -/
def Obligations.IterationIsSelectedOperation : Prop :=
  ∀ (s : State) (ch : Chan),
    (isWait (s.leaf ch) = true ∧ s.loopStep ch = none ∧
      exec (leafInstr ch (s.leaf ch)) s = .next { s with ret := .nothing }) ∨
    (isWait (s.leaf ch) = false ∧ ∃ t : State, s.loopStep ch = some t ∧
      exec (leafInstr ch (s.leaf ch)) s = .next { t with ret := .nothing })

/-- A loop operation presented where the buffer does not select it is refused by its name, the table's mnemonic, and so is
FRM.EVICT under the bound: the rules give it no effect there. The refusal is the model's choice (log 1). -/
def Obligations.UnselectedOperationIsRefused : Prop :=
  ∀ (s : State) (ch : Chan),
    (∀ p ∈ [(Instr.frmWaitNocand ch, "FRM.WAIT.NOCAND"), (.frmGarbage ch, "FRM.GARBAGE"), (.frmXmWait ch, "FRM.XM.WAIT"),
        (.frmXm128 ch, "FRM.XM128"), (.frmXm1k ch, "FRM.XM1K"), (.frmStdWait8 ch, "FRM.STD.WAIT8"),
        (.frmStdBadpar ch, "FRM.STD.BADPAR"), (.frmStdWaitlen ch, "FRM.STD.WAITLEN"),
        (.frmStdBadcrc ch, "FRM.STD.BADCRC"), (.frmStdEmit ch, "FRM.STD.EMIT")],
      p.1 ≠ leafInstr ch (s.leaf ch) → exec p.1 s = .refused (.notSelected p.2)) ∧
    ((s.frm ch).buf.length ≤ 131072 → exec (.frmEvict ch) s = .refused (.notSelected "FRM.EVICT"))

/-- FRM.SEARCH returns the earliest candidate of either format, or none where there is none, and changes nothing; for every
value of the start bytes `SOH`, `STX` (their defaults 0x01, 0x02 are D6, log 9). -/
def Obligations.SearchReturnsEarliest : Prop :=
  ∀ (s : State) (ch : Chan),
    ∃ r : Option (Nat × FmtKind), exec (.frmSearch ch) s = .next { s with ret := .cand r } ∧
      match r with
      | none => ∀ (j : Nat) (k : FmtKind), ¬ IsCandidate s.cfg.wire (s.frm ch).buf j k
      | some (i, k) => IsCandidate s.cfg.wire (s.frm ch).buf i k ∧
          (∀ k' : FmtKind, IsCandidate s.cfg.wire (s.frm ch).buf i k' → k' = k) ∧
          ∀ (j : Nat) (k' : FmtKind), j < i → ¬ IsCandidate s.cfg.wire (s.frm ch).buf j k'

/-- The four waits keep all state: no candidate; an incomplete XMODEM block; fewer than 8 bytes of a standard frame; fewer
than 8 + L + 2 behind a valid header checksum (`hdrChk`, see HeaderValidIffSumIs255). -/
def Obligations.WaitsKeepAllState : Prop :=
  ∀ (s : State) (ch : Chan),
    let w := s.cfg.wire
    let buf := (s.frm ch).buf
    (search w buf = none → exec (.frmWaitNocand ch) s = .next { s with ret := .nothing }) ∧
    (search w buf = some (0, .xm) → buf.length < 3 + (if byteAt buf 0 = w.soh then 128 else 1024) + 2 →
      exec (.frmXmWait ch) s = .next { s with ret := .nothing }) ∧
    (search w buf = some (0, .std) → buf.length < 8 →
      exec (.frmStdWait8 ch) s = .next { s with ret := .nothing }) ∧
    (search w buf = some (0, .std) → 8 ≤ buf.length → byteAt buf 7 = hdrChk w (slice buf 0 7) →
      buf.length < 8 + (be16 (byteAt buf 5) (byteAt buf 6)).toNat + 2 →
      exec (.frmStdWaitlen ch) s = .next { s with ret := .nothing })

/-- The header of a standard frame is valid exactly when its first eight bytes sum to 255 modulo 256. That "complement"
means one's complement is D7 (log 11), here the hypothesis on the parameter. -/
def Obligations.HeaderValidIffSumIs255 : Prop :=
  ∀ (w : WireParams) (buf : List Byte), w.hdrChkOnes = true → 8 ≤ buf.length →
    (byteAt buf 7 = hdrChk w (slice buf 0 7) ↔ sum8 (slice buf 0 8) = 0xFF)

/-- FRM.GARBAGE(i): one garbage_before_header event with exactly the i bytes before the candidate, which are consumed
(R146). -/
def Obligations.GarbageIsReported : Prop :=
  ∀ (s : State) (ch : Chan) (i : Nat) (k : FmtKind), search s.cfg.wire (s.frm ch).buf = some (i, k) → 0 < i →
    let f := s.frm ch
    exec (.frmGarbage ch) s = .next ({ s with ret := .nothing }.setFrm ch { f with
      buf := f.buf.drop i
      ev := f.ev ++ [Event.diag ch (f.buf.take i) .garbageBeforeHeader]
      hist := f.hist ++ [Span.diag (f.buf.take i) .garbageBeforeHeader] })

/-- FRM.XM128 and FRM.XM1K consume the whole block, notify its sequence and length, and update the bookkeeping; no frame is
pushed. The start bytes 0x01 and 0x02 are D6 (log 9), the meanings of gap and duplicate D13 (log 15), the block's contents
unchecked D14 (log 16). -/
def Obligations.XmodemBlocksAreConsumed : Prop :=
  ∀ (s : State) (ch : Chan) (q c : Byte) (rest : List Byte), s.cfg.wire = defaultWire → q + c = 0xFF →
    let f := s.frm ch
    let dup := decide (f.xmLast = some q)
    let gap := decide (∃ l, f.xmLast = some l ∧ l ≠ q ∧ l + 1 ≠ q)
    (f.buf = 0x01 :: q :: c :: rest → 130 ≤ rest.length →
      exec (.frmXm128 ch) s = .next ({ s with ret := .nothing }.setFrm ch { f with
        buf := f.buf.drop 133, xmLast := some q, xmGap := gap, xmDup := dup
        ev := f.ev ++ [Event.xm ch q .n128]
        hist := f.hist ++ [Span.xm q .n128 (f.buf.take 133)] })) ∧
    (f.buf = 0x02 :: q :: c :: rest → 1026 ≤ rest.length →
      exec (.frmXm1k ch) s = .next ({ s with ret := .nothing }.setFrm ch { f with
        buf := f.buf.drop 1029, xmLast := some q, xmGap := gap, xmDup := dup
        ev := f.ev ++ [Event.xm ch q .n1024]
        hist := f.hist ++ [Span.xm q .n1024 (f.buf.take 1029)] }))

/-- FRM.STD.BADPAR: a wrong header checksum drops the marker with one bad_header_parity event (R151). The parameter's
hypothesis is D7 (log 11). -/
def Obligations.BadHeaderDropsMarker : Prop :=
  ∀ (s : State) (ch : Chan) (rest : List Byte), s.cfg.wire.hdrChkOnes = true →
    (s.frm ch).buf = 0x55 :: 0x00 :: 0x01 :: rest → 8 ≤ (s.frm ch).buf.length →
    byteAt (s.frm ch).buf 7 ≠ not8 (sum8 (slice (s.frm ch).buf 0 7)) →
    exec (.frmStdBadpar ch) s = .next ({ s with ret := .nothing }.setFrm ch { s.frm ch with
      buf := rest
      ev := (s.frm ch).ev ++ [Event.diag ch [0x55, 0x00, 0x01] .badHeaderParity]
      hist := (s.frm ch).hist ++ [Span.diag [0x55, 0x00, 0x01] .badHeaderParity] })

/-- FRM.STD.BADCRC: a wrong CRC trailer drops the marker with one bad_crc event, though all bytes were examined (R153). The
accumulator's value after the computation is free (log 5); the parameter's hypothesis is D7 (log 11). -/
def Obligations.BadCrcDropsMarker : Prop :=
  ∀ (s : State) (ch : Chan) (rest : List Byte), s.cfg.wire.hdrChkOnes = true →
    let buf := (s.frm ch).buf
    let len := (be16 (byteAt buf 5) (byteAt buf 6)).toNat
    buf = 0x55 :: 0x00 :: 0x01 :: rest → byteAt buf 7 = not8 (sum8 (slice buf 0 7)) → 8 + len + 2 ≤ buf.length →
    crc16 s.cfg.tables (slice buf 0 (8 + len)) ≠ (byteAt buf (8 + len), byteAt buf (9 + len)) →
    ∃ (lo hi : Byte) (n : Nat), exec (.frmStdBadcrc ch) s =
      .next ({ s with crcLo := lo, crcHi := hi, freeCount := n, ret := .nothing }.setFrm ch { s.frm ch with
        buf := rest
        ev := (s.frm ch).ev ++ [Event.diag ch [0x55, 0x00, 0x01] .badCrc]
        hist := (s.frm ch).hist ++ [Span.diag [0x55, 0x00, 0x01] .badCrc] })

/-- FRM.STD.EMIT(L): a frame whose header checksum and CRC are valid is pushed with its fields and consumed whole (R154).
The accumulator's value after the computation is free (log 5); the parameter's hypothesis is D7 (log 11). -/
def Obligations.ValidFrameIsPushed : Prop :=
  ∀ (s : State) (ch : Chan) (rest : List Byte), s.cfg.wire.hdrChkOnes = true →
    let buf := (s.frm ch).buf
    let len := (be16 (byteAt buf 5) (byteAt buf 6)).toNat
    buf = 0x55 :: 0x00 :: 0x01 :: rest → byteAt buf 7 = not8 (sum8 (slice buf 0 7)) → 8 + len + 2 ≤ buf.length →
    crc16 s.cfg.tables (slice buf 0 (8 + len)) = (byteAt buf (8 + len), byteAt buf (9 + len)) →
    let fr : Frame := { sequence := byteAt buf 3, type := byteAt buf 4, payload := slice buf 8 (8 + len),
                        raw := slice buf 0 (8 + len + 2) }
    ∃ (lo hi : Byte) (n : Nat), exec (.frmStdEmit ch) s =
      .next ({ s with crcLo := lo, crcHi := hi, freeCount := n, ret := .nothing }.setFrm ch { s.frm ch with
        buf := buf.drop (8 + len + 2)
        ready := (s.frm ch).ready ++ [fr]
        hist := (s.frm ch).hist ++ [Span.frame fr] })

/-- FRM.TAKE returns all frames of the FIFO, oldest first, and empties it; nothing else changes (R155). -/
def Obligations.TakeDrainsFifo : Prop :=
  ∀ (s : State) (ch : Chan),
    exec (.frmTake ch) s =
      .next ({ s with ret := .frames (s.frm ch).ready }.setFrm ch { s.frm ch with ready := [] })

/-! ### FRM: the properties -/

/-- Round trip: from an empty buffer, FRM.ADD(FRAME(seq, type, P)) pushes exactly one frame, with these fields and the whole
input as raw, emits no event and leaves the buffer empty; for every table and every parameter (the spec derives it: R158). -/
def Obligations.FrameRoundTrip : Prop :=
  ∀ (s : State) (ch : Chan) (seq type : Byte) (p : List Byte), (s.frm ch).buf = [] → p.length ≤ 65535 →
    ∃ t : State, exec (.frmAdd ch (frameBytes s.cfg seq type p)) s = .next t ∧
      (t.frm ch).ready = (s.frm ch).ready ++
        [{ sequence := seq, type := type, payload := p, raw := frameBytes s.cfg seq type p }] ∧
      (t.frm ch).ev = (s.frm ch).ev ∧ (t.frm ch).buf = [] ∧ (t.frm ch).xmLast = (s.frm ch).xmLast

/-- Garbage skip: garbage in which no candidate begins, followed by a frame, gives one event with exactly the garbage and
then the frame (from R146 and R158). -/
def Obligations.GarbageThenFrame : Prop :=
  ∀ (s : State) (ch : Chan) (seq type : Byte) (p g : List Byte),
    (s.frm ch).buf = [] → p.length ≤ 65535 → g ≠ [] →
    (∀ (j : Nat) (k : FmtKind), j < g.length → ¬ IsCandidate s.cfg.wire (g ++ frameBytes s.cfg seq type p) j k) →
    ∃ t : State, exec (.frmAdd ch (g ++ frameBytes s.cfg seq type p)) s = .next t ∧
      (t.frm ch).ev = (s.frm ch).ev ++ [Event.diag ch g .garbageBeforeHeader] ∧
      (t.frm ch).ready = (s.frm ch).ready ++
        [{ sequence := seq, type := type, payload := p, raw := frameBytes s.cfg seq type p }] ∧
      (t.frm ch).buf = []

/-- Chunking invariance: feeding chunks one by one or joined gives the same instance (frames, events, buffer, bookkeeping),
provided no eviction occurs, that is the buffer is never over its bound when a chunk is added (the spec derives it: R159). -/
def Obligations.ChunkingInvariance : Prop :=
  ∀ (s : State) (ch : Chan) (chunks : List (List Byte)), chunks ≠ [] →
    (∀ (k : Nat) (u : State), k < chunks.length →
      execAll ((chunks.take k).map (Instr.frmAdd ch)) s = .next u → (u.frm ch).buf.length ≤ 131072) →
    ∃ t u : State, execAll (chunks.map (Instr.frmAdd ch)) s = .next t ∧
      exec (.frmAdd ch chunks.flatten) s = .next u ∧ t.frm ch = u.frm ch

/-- Buffer bound: after any FRM.ADD the buffer holds at most MAX_BUF_SIZE plus the chunk's bytes (R36 (c), which the spec
derives). -/
def Obligations.BufferStaysBounded : Prop :=
  ∀ (s : State) (ch : Chan) (chunk : List Byte), ∃ t : State,
    exec (.frmAdd ch chunk) s = .next t ∧ (t.frm ch).buf.length ≤ 131072 + chunk.length

/-- The invariant of R36 and R262 is kept by every step from every state that has it: every byte received is in the buffer or
in exactly one span; the events are the spans' in order; the FIFO holds the latest pushed frames in arrival order; every
pushed frame passed both checks. The fields `rx` and `hist` it speaks of are the model's (log 22). -/
def Obligations.StepKeepsInvariant : Prop :=
  ∀ s t : State, Inv s → step s = .next t → Inv t

/-- The invariant holds after reset, for the reset state and for what RESET leaves from any state. -/
def Obligations.ResetHasInvariant : Prop :=
  Inv State.reset ∧ ∀ s : State, ∃ t : State, exec .reset s = .next t ∧ Inv t

/-- Every interleaving gives each instance the same result as running alone: of any operations in a row other than RESET, those
of one instance by themselves leave that instance as the whole row does. That runs in a row show all there is is DEDUCED from
R61 (log 27). -/
def Obligations.ChannelsAreIndependent : Prop :=
  ∀ (l : List Instr) (s t : State) (ch : Chan), Instr.reset ∉ l → execAll l s = .next t →
    ∃ u : State, execAll (l.filter fun i => decide (instrChan i = some ch)) s = .next u ∧ u.frm ch = t.frm ch

/-- No operation on one instance reads or writes the other: its outcome, its instance and what it returns are decided by its
own instance and the parameters; the other instance, EXT's record, the parameters and the host's queue stay. -/
def Obligations.FramerOpsTouchOneInstance : Prop :=
  ∀ (i : Instr) (ch : Chan) (s s' t : State), instrChan i = some ch → s.cfg = s'.cfg → s.frm ch = s'.frm ch →
    exec i s = .next t →
    (∃ t' : State, exec i s' = .next t' ∧ t'.frm ch = t.frm ch ∧ t'.ret = t.ret) ∧
    t.frm (otherChan ch) = s.frm (otherChan ch) ∧ t.ext = s.ext ∧ t.cfg = s.cfg ∧ t.host = s.host

/-- Within one FRM.ADD a buffer_overflow event, raised exactly when the buffer was over its bound, comes before every other
event, and there is at most one (the spec derives it: R258; the strict bound is D9, log 13). -/
def Obligations.OverflowEventComesFirst : Prop :=
  ∀ (s : State) (ch : Chan) (chunk : List Byte), ∃ (t : State) (post : List Event),
    exec (.frmAdd ch chunk) s = .next t ∧
    (t.frm ch).ev = (s.frm ch).ev ++
      (if 131072 < (s.frm ch).buf.length then
        [Event.diag ch ((s.frm ch).buf.take ((s.frm ch).buf.length - 4096)) .bufferOverflow] else []) ++ post ∧
    ∀ (c : Chan) (bytes : List Byte), Event.diag c bytes .bufferOverflow ∉ post

/-- While the loop stalls, FRM.ADD only stores the bytes: no event, no frame, whatever lies behind the header. The four stalls:
no candidate is found; an XMODEM header waits for its block; a standard candidate has fewer than 8 bytes, or fewer than
8 + L + 2 behind a valid header checksum (R145, R148, R152, R156, R284, R285; the bound is D9, log 13). -/
def Obligations.StalledAddOnlyStores : Prop :=
  ∀ (s : State) (ch : Chan) (chunk : List Byte), (s.frm ch).buf.length ≤ 131072 →
    let w := s.cfg.wire
    let buf := (s.frm ch).buf ++ chunk
    (search w buf = none ∨
      (search w buf = some (0, .xm) ∧ buf.length < 3 + (if byteAt buf 0 = w.soh then 128 else 1024) + 2) ∨
      (search w buf = some (0, .std) ∧ buf.length < 8) ∨
      (search w buf = some (0, .std) ∧ 8 ≤ buf.length ∧ byteAt buf 7 = hdrChk w (slice buf 0 7) ∧
        buf.length < 8 + (be16 (byteAt buf 5) (byteAt buf 6)).toNat + 2)) →
    exec (.frmAdd ch chunk) s = .next ({ s with ret := .nothing }.setFrm ch { s.frm ch with
      buf := buf
      rx := (s.frm ch).rx ++ chunk })

/-- The XMODEM bookkeeping is inert: two states that differ only in it answer every operation alike, and still differ only
in it afterwards (R26, R27). -/
def Obligations.XmodemBookkeepingIsInert : Prop :=
  ∀ (i : Instr) (s s' : State), blindXm s = blindXm s' →
    (∀ t : State, exec i s = .next t → ∃ t' : State, exec i s' = .next t' ∧ blindXm t = blindXm t') ∧
    (∀ r : Refusal, exec i s = .refused r → exec i s' = .refused r)

/-! ### EXT, generic (42_extractor.md) -/

/-- EXT.SUBID reads the big-endian id and its class, or marks it invalid under two bytes (D16); EXT.EXCLUDE returns and
records whether a valid id is in EXCLUDE (D21); EXT.VALREQ sets its marker exactly at type 1 and length 2. Log 17, log 20. -/
def Obligations.IdentificationSteps : Prop :=
  (∀ (s : State) (p : List Byte), 2 ≤ p.length →
    exec (.extSubid p) s = .next { s with ret := .nothing, ext := { s.ext with
      subId := be16 (byteAt p 0) (byteAt p 1), subIdValid := true
      cls := (s.cfg.submsgClass.lookup (be16 (byteAt p 0) (byteAt p 1))).getD .none } }) ∧
  (∀ (s : State) (p : List Byte), p.length < 2 →
    exec (.extSubid p) s =
      .next { s with ret := .nothing, ext := { s.ext with subId := 0, subIdValid := false, cls := .none } }) ∧
  (∀ s : State,
    let b := s.ext.subIdValid && s.cfg.exclude.contains s.ext.subId
    exec .extExclude s = .next { s with ret := .excluded b, ext := { s.ext with suppressed := b } }) ∧
  (∀ s : State, exec (.extValreq 1 2) s = .next { s with ret := .nothing, ext := { s.ext with value := .valreq } }) ∧
  (∀ (s : State) (t : Byte) (n : Half), ¬(t = 1 ∧ n = 2) →
    exec (.extValreq t n) s = .next { s with ret := .nothing })

/-- The scalar decoders: UINT8, UINT16, UINT32, VOID and BOOL set `generic` and `value` to their big-endian result and ignore
surplus bytes (D18); too short a value falls back to RAW from the tag byte on. Log 20. -/
def Obligations.ScalarDecoders : Prop :=
  ∀ (s : State) (sub : Half) (a b c d : Byte) (v : List Byte),
    let w := s.cfg.wire
    let done := fun g : Generic =>
      Host.Outcome.next (φ := Fault) (ρ := Refusal)
        { s with ret := .nothing, ext := { s.ext with generic := some g, value := .gen g } }
    let raw := fun bytes : List Byte =>
      Host.Outcome.next (φ := Fault) (ρ := Refusal)
        { s with ret := .nothing, ext := { s.ext with generic := none, value := .raw bytes } }
    exec (.extUint8 sub (a :: v)) s = done (.u8 a) ∧
    exec (.extUint8 sub []) s = raw [w.tagUint8] ∧
    exec (.extUint16 sub (a :: b :: v)) s = done (.u16 (be16 a b)) ∧
    (v.length < 2 → exec (.extUint16 sub v) s = raw (w.tagUint16 :: v)) ∧
    exec (.extUint32 sub (a :: b :: c :: d :: v)) s = done (.u32 (be32 a b c d)) ∧
    (v.length < 4 → exec (.extUint32 sub v) s = raw (w.tagUint32 :: v)) ∧
    exec (.extVoid sub v) s = done .void ∧
    exec (.extBool sub (a :: v)) s = done (.bool (a != 0)) ∧
    exec (.extBool sub []) s = raw [w.tagBool]

/-- The blob decoders: a two-byte big-endian length and that many bytes, surplus ignored (D18); BLOB1 also says whether every
byte is at most 0x7F (D19). A missing prefix, or a length beyond the bytes present, falls back to RAW. Log 20. -/
def Obligations.BlobDecoders : Prop :=
  ∀ (s : State) (sub : Half),
    let raw := fun bytes : List Byte =>
      Host.Outcome.next (φ := Fault) (ρ := Refusal)
        { s with ret := .nothing, ext := { s.ext with generic := none, value := .raw bytes } }
    (∀ (b rest : List Byte), b.length ≤ 65535 →
      let v := be16Bytes (BitVec.ofNat 16 b.length) ++ b ++ rest
      let ok := decide (∀ x ∈ b, x.toNat ≤ 0x7F)
      exec (.extBlob1 sub v) s = .next { s with ret := .nothing, ext := { s.ext with
        generic := some (.blob1 b ok), value := .gen (.blob1 b ok) } } ∧
      exec (.extBlob2 sub v) s = .next { s with ret := .nothing, ext := { s.ext with
        generic := some (.blob2 b), value := .gen (.blob2 b) } }) ∧
    (∀ v : List Byte, v.length < 2 ∨ v.length < 2 + (be16 (byteAt v 0) (byteAt v 1)).toNat →
      exec (.extBlob1 sub v) s = raw (s.cfg.wire.tagBlob1 :: v) ∧
      exec (.extBlob2 sub v) s = raw (s.cfg.wire.tagBlob2 :: v))

/-- The two fallbacks: EXT.RAW shows the payload from offset 2, the tag byte included (R192); EXT.TRUNC sets TRUNC unless
VALREQ stands, which is D17 (log 20). -/
def Obligations.FallbacksShowRawOrTrunc : Prop :=
  ∀ s : State,
    (∀ (sub : Half) (g : Byte) (v : List Byte),
      exec (.extRaw sub g v) s = .next { s with ret := .nothing, ext := { s.ext with
        generic := none, value := .raw (g :: v) } }) ∧
    ∀ p : List Byte,
      (s.ext.value = .valreq →
        exec (.extTrunc p) s = .next { s with ret := .nothing, ext := { s.ext with generic := none } }) ∧
      (s.ext.value ≠ .valreq → exec (.extTrunc p) s = .next { s with ret := .nothing, ext := { s.ext with
        generic := none, value := .trunc } })

/-- EXT.TAG does what the decoder its tag byte selects does: 0x00 to 0x06 the seven decoders, any other EXT.RAW; under three
bytes EXT.TRUNC. The tag numbers other than 0x01 are D15 (log 10), here the hypothesis on the parameters. -/
def Obligations.TagDispatch : Prop :=
  ∀ s : State, s.cfg.wire = defaultWire →
    (∀ (sub : Half) (v : List Byte),
      exec (.extTag (be16Bytes sub ++ 0x00 :: v)) s = exec (.extUint8 sub v) s ∧
      exec (.extTag (be16Bytes sub ++ 0x01 :: v)) s = exec (.extUint16 sub v) s ∧
      exec (.extTag (be16Bytes sub ++ 0x02 :: v)) s = exec (.extUint32 sub v) s ∧
      exec (.extTag (be16Bytes sub ++ 0x03 :: v)) s = exec (.extVoid sub v) s ∧
      exec (.extTag (be16Bytes sub ++ 0x04 :: v)) s = exec (.extBool sub v) s ∧
      exec (.extTag (be16Bytes sub ++ 0x05 :: v)) s = exec (.extBlob1 sub v) s ∧
      exec (.extTag (be16Bytes sub ++ 0x06 :: v)) s = exec (.extBlob2 sub v) s ∧
      ∀ g : Byte, 6 < g.toNat → exec (.extTag (be16Bytes sub ++ g :: v)) s = exec (.extRaw sub g v) s) ∧
    (∀ p : List Byte, p.length < 3 → exec (.extTag p) s = exec (.extTrunc p) s) ∧
    (∀ p : List Byte, ∃ o : ExtOut, exec (.extTag p) s = .next { s with ret := .nothing, ext := o })

/-- EXT.DIR and EXT.TYPE: the direction from the channel alone, the kind from the type byte, 0 and 6 to 255 unknown
(R194, R195). -/
def Obligations.DirectionAndType : Prop :=
  ∀ s : State,
    let dir := fun d : Dir =>
      Host.Outcome.next (φ := Fault) (ρ := Refusal) { s with ret := .nothing, ext := { s.ext with dir := some d } }
    let kind := fun k : TKind =>
      Host.Outcome.next (φ := Fault) (ρ := Refusal) { s with ret := .nothing, ext := { s.ext with tkind := some k } }
    exec (.extDir .ch0) s = dir .h2s ∧ exec (.extDir .ch1) s = dir .s2h ∧
    exec (.extType 1) s = kind .response ∧ exec (.extType 2) s = kind .write ∧ exec (.extType 3) s = kind .ack ∧
    exec (.extType 4) s = kind .readreq ∧ exec (.extType 5) s = kind .report ∧
    ∀ t : Byte, t = 0 ∨ 6 ≤ t.toNat → exec (.extType t) s = kind .typeUnknown

/-- EXT.ACK: an acknowledge payload of at least four bytes replaces `value` by its big-endian status, 0 being OK; with any
other type, or fewer bytes (D20, log 20), nothing changes. -/
def Obligations.AckReplacesValue : Prop :=
  ∀ (s : State) (i1 i0 c1 c0 : Byte) (rest : List Byte),
    exec (.extAck 3 (i1 :: i0 :: c1 :: c0 :: rest)) s = .next { s with ret := .nothing, ext := { s.ext with
      value := .ackst (decide (be16 c1 c0 = 0)) (be16 c1 c0) } } ∧
    ∀ (t : Byte) (p : List Byte), t ≠ 3 ∨ p.length < 4 → exec (.extAck t p) s = .next { s with ret := .nothing }

/-! ### EXT, structured (43_structured.md) -/

/-- EXT.TRACK appends the count and the complete records present, at most the count, read big-endian; surplus bytes are
ignored and `value` is not changed. For another type or class, or no non-empty blob, nothing changes. Layout and count are
the spec's choice D22 (log 18), the byte order a hypothesis. -/
def Obligations.TrackExtractsRecords : Prop :=
  (∀ (s : State) (count : Byte) (recs : List Target) (surplus : List Byte) (ok : Bool),
    s.cfg.wire.trackBigEndian = true → s.ext.cls = .track → (∀ r ∈ recs, TargetFits r) → surplus.length < 14 →
    let b := count :: (recs.flatMap targetBytes ++ surplus)
    s.ext.generic = some (.blob2 b) ∨ s.ext.generic = some (.blob1 b ok) →
    exec (.extTrack 5) s = .next { s with ret := .nothing, ext := { s.ext with
      detail := s.ext.detail ++ [Detail.track count (recs.take count.toNat)] } }) ∧
  (∀ (s : State) (t : Byte),
    t ≠ 5 ∨ s.ext.cls ≠ .track ∨ blobBytes s.ext.generic = none ∨ blobBytes s.ext.generic = some [] →
    exec (.extTrack t) s = .next { s with ret := .nothing })

/-- The zone overrides split a UINT16 value into zone and low byte, each for its class (D31, log 20); without a UINT16, or
for another class, nothing changes. -/
def Obligations.ZoneWordsAreSplit : Prop :=
  ∀ s : State,
    (∀ z l : Byte, s.ext.generic = some (.u16 (be16 z l)) →
      (s.ext.cls = .zoneMotion → exec .extZoneMotion s =
        .next { s with ret := .nothing, ext := { s.ext with value := .zonest z l } }) ∧
      (s.ext.cls = .zonePresence → exec .extZonePresence s =
        .next { s with ret := .nothing, ext := { s.ext with value := .zoneocc z l (decide (l = 1)) } }) ∧
      (s.ext.cls = .zoneSens ∨ s.ext.cls = .zoneType ∨ s.ext.cls = .zoneCloseAway → exec .extZoneEnum s =
        .next { s with ret := .nothing, ext := { s.ext with value := .zoneenum z l } })) ∧
    ((∀ w : Half, s.ext.generic ≠ some (.u16 w)) ∨ s.ext.cls ≠ .zoneMotion →
      exec .extZoneMotion s = .next { s with ret := .nothing }) ∧
    ((∀ w : Half, s.ext.generic ≠ some (.u16 w)) ∨ s.ext.cls ≠ .zonePresence →
      exec .extZonePresence s = .next { s with ret := .nothing }) ∧
    ((∀ w : Half, s.ext.generic ≠ some (.u16 w)) ∨
        (s.ext.cls ≠ .zoneSens ∧ s.ext.cls ≠ .zoneType ∧ s.ext.cls ≠ .zoneCloseAway) →
      exec .extZoneEnum s = .next { s with ret := .nothing })

/-- EXT.BITMAP and EXT.BITMAP.ZONE append the 20 row words of a 40-byte blob, and of a 41-byte blob behind its zone byte; a
blob of another length, or another class, gets nothing. Row byte order and container are D23 (log 19). -/
def Obligations.BitmapsAreExtracted : Prop :=
  ∀ s : State,
    (∀ rows : List Half, rows.length = 20 → blobBytes s.ext.generic = some (rows.flatMap be16Bytes) →
      s.ext.cls = .bitmap → exec .extBitmap s = .next { s with ret := .nothing, ext := { s.ext with
        detail := s.ext.detail ++ [Detail.bitmap none rows] } }) ∧
    (∀ (z : Byte) (rows : List Half), rows.length = 20 →
      blobBytes s.ext.generic = some (z :: rows.flatMap be16Bytes) → s.ext.cls = .bitmapZone →
      exec .extBitmapZone s = .next { s with ret := .nothing, ext := { s.ext with
        detail := s.ext.detail ++ [Detail.bitmap (some z) rows] } }) ∧
    (s.ext.cls ≠ .bitmap ∨ blobBytes s.ext.generic = none ∨
        (∃ b, blobBytes s.ext.generic = some b ∧ b.length ≠ 40) →
      exec .extBitmap s = .next { s with ret := .nothing }) ∧
    (s.ext.cls ≠ .bitmapZone ∨ blobBytes s.ext.generic = none ∨
        (∃ b, blobBytes s.ext.generic = some b ∧ b.length ≠ 41) →
      exec .extBitmapZone s = .next { s with ret := .nothing })

/-- EXT.LRREV and EXT.MOUNT turn an unsigned integer value of any width (D31, log 20) into its code, each for its class;
otherwise nothing changes. Code 0 of LRREV is labeled Consistent, 1 Opposite, code 1 of MOUNT Wall, every other code is
unlabeled (log 31). -/
def Obligations.EnumCodesAreShown : Prop :=
  ∀ s : State,
    (∀ code : Long,
      (∃ v : Byte, s.ext.generic = some (.u8 v) ∧ code = v.setWidth 32) ∨
      (∃ v : Half, s.ext.generic = some (.u16 v) ∧ code = v.setWidth 32) ∨ s.ext.generic = some (.u32 code) →
      (s.ext.cls = .lrrev → exec .extLrrev s =
        .next { s with ret := .nothing, ext := { s.ext with value := .enum code } }) ∧
      (s.ext.cls = .mount → exec .extMount s =
        .next { s with ret := .nothing, ext := { s.ext with value := .enum code } })) ∧
    (s.ext.cls ≠ .lrrev ∨ intCode s.ext.generic = none → exec .extLrrev s = .next { s with ret := .nothing }) ∧
    (s.ext.cls ≠ .mount ∨ intCode s.ext.generic = none → exec .extMount s = .next { s with ret := .nothing }) ∧
    ∀ (cfg : Params) (o : ExtOut) (code : Long), o.value = .enum code →
      (o.cls = .lrrev → valueLabel cfg o =
        if code = 0 then some "Consistent" else if code = 1 then some "Opposite" else none) ∧
      (o.cls = .mount → valueLabel cfg o = if code = 1 then some "Wall" else none)

/-! ### EXT.DECODE as a whole -/

/-- EXT.DECODE is its steps in the order of R180 on an empty record: EXT.SUBID and EXT.EXCLUDE; then, unless excluded, the
rest, ending in EXT.ACK, and the sequence; it returns the record and changes nothing else. -/
def Obligations.DecodeRunsItsSteps : Prop :=
  ∀ (s : State) (ch : Chan) (f : Frame), f.payload.length ≤ 65535 →
    ∃ u : State, execAll [.extSubid f.payload, .extExclude] { s with ext := .empty } = .next u ∧
      (u.ext.suppressed = true →
        exec (.extDecode ch f) s = .next { s with ext := u.ext, ret := .ext u.ext }) ∧
      (u.ext.suppressed = false → ∃ v : State, execAll (decodeSteps ch f) u = .next v ∧
        let o := { v.ext with sequence := some f.sequence }
        exec (.extDecode ch f) s = .next { s with ext := o, ret := .ext o })

/-- EXT.ACK is applied last: a message that is not excluded, of type 3 and at least four payload bytes, shows its status
whatever its class, while `generic` and `detail` are those of the same payload under type 2 (the spec derives it: R229). -/
def Obligations.AckOverridesAnyLayout : Prop :=
  ∀ (s : State) (ch : Chan) (f : Frame) (i1 i0 c1 c0 : Byte) (rest : List Byte),
    f.type = 3 → f.payload = i1 :: i0 :: c1 :: c0 :: rest → s.cfg.exclude.contains (be16 i1 i0) = false →
    ∃ t u : State, exec (.extDecode ch f) s = .next t ∧ exec (.extDecode ch { f with type := 2 }) s = .next u ∧
      t.ext.value = .ackst (decide (be16 c1 c0 = 0)) (be16 c1 c0) ∧
      t.ext.generic = u.ext.generic ∧ t.ext.detail = u.ext.detail

/-- EXT changes EXT's record and the returned value, nothing else: no event, no frame, no CRC; and it completes on every
input. That State keeps the record is the model's choice (log 22). -/
def Obligations.ExtractorTouchesOnlyItsRecord : Prop :=
  ∀ (i : Instr) (s : State), isExt i = true →
    ∃ (o : ExtOut) (r : Ret), exec i s = .next { s with ext := o, ret := r }

/-- A generic value written as a payload by the encoder is what EXT.DECODE extracts from it, for every kind and value; with
class NONE and a type other than 3 it is also the value shown. The tag numbers are D15 (log 10). -/
def Obligations.GenericValueRoundTrip : Prop :=
  ∀ (s : State) (ch : Chan) (sub : Half) (g : Generic) (seq type : Byte) (raw : List Byte),
    s.cfg.wire = defaultWire → GenericFits g → s.cfg.exclude.contains sub = false →
    let p := payloadBytes sub (tagByte defaultWire (genericKind g)) (genericBytes g)
    ∃ t : State, exec (.extDecode ch { sequence := seq, type := type, payload := p, raw := raw }) s = .next t ∧
      t.ext.subId = sub ∧ t.ext.subIdValid = true ∧ t.ext.generic = some g ∧ t.ext.sequence = some seq ∧
      (classOf s.cfg sub = .none → type ≠ 3 → t.ext.value = .gen g)

/-- From wire to field: a frame built around a generic value, added on an empty instance and taken, is the one frame
returned, and EXT.DECODE of it yields that value, its id, its sequence and the channel's direction. Tag numbers: D15. -/
def Obligations.WireToFieldEndToEnd : Prop :=
  ∀ (s : State) (ch : Chan) (sub : Half) (g : Generic) (seq type : Byte),
    s.cfg.wire = defaultWire → GenericFits g → s.cfg.exclude.contains sub = false →
    (s.frm ch).buf = [] → (s.frm ch).ready = [] →
    let p := payloadBytes sub (tagByte defaultWire (genericKind g)) (genericBytes g)
    ∃ (u v : State) (fr : Frame),
      execAll [.frmAdd ch (frameBytes s.cfg seq type p), .frmTake ch] s = .next u ∧ u.ret = .frames [fr] ∧
      exec (.extDecode ch fr) u = .next v ∧ v.ext.generic = some g ∧ v.ext.subId = sub ∧
      v.ext.sequence = some seq ∧ v.ext.dir = some (match ch with | .ch0 => Dir.h2s | .ch1 => Dir.s2h)

/-! ### Reset and constants -/

/-- RESET empties both instances and emits nothing; the accumulator is not reset (D25; of a running instance U16, log 24).
The reset state's instances are such, and no transaction is pending in it (log 3). -/
def Obligations.ResetEmptiesInstances : Prop :=
  let empty : Sys2Proof.Machine.Frm := { buf := [], ready := [], xmLast := none, xmGap := false, xmDup := false, ev := [], rx := [], hist := [] }
  (∀ s : State, exec .reset s = .next { s with frm0 := empty, frm1 := empty, ret := .nothing }) ∧
  State.reset.frm0 = empty ∧ State.reset.frm1 = empty ∧ State.reset.host = []

/-- No operation ever writes the CRC tables or any other parameter. -/
def Obligations.ParametersAreNeverWritten : Prop :=
  ∀ (i : Instr) (s t : State), exec i s = .next t → t.cfg = s.cfg
end

