-- ==== Sys2Proof/Laws/PerInstr.lean ====
section
/-! SUPPORT. The family ParseOperands: the record parser reads back what the encoder wrote, one lemma per constructor. -/

namespace Sys2Proof.Laws

open Sys2Proof Sys2Proof.Machine

theorem be16_be16Bytes (h : Half) : be16 (h.extractLsb' 8 8) (h.extractLsb' 0 8) = h := by
  unfold be16
  ext i hi
  simp only [BitVec.getElem_append, BitVec.getElem_extractLsb']
  split
  · simp [BitVec.getElem_eq_testBit_toNat, BitVec.getLsbD]
  · simp [BitVec.getElem_eq_testBit_toNat, BitVec.getLsbD, show 8 + (i - 8) = i by omega]

theorem chanOf_chanByte (ch : Chan) : chanOf (chanByte ch) = some ch := by
  cases ch <;> rfl

theorem parseTagged_payload (tag : Byte) (sub : Half) (v : List Byte) (k : Half → List Byte → Instr) :
    parseTagged tag (payloadBytes sub tag v) k = .ok (k sub v) := by
  simp [parseTagged, payloadBytes, be16Bytes, be16_be16Bytes]

namespace ParseOperands

/-- The parser of a well-formed operation's row reads its operand bytes back as that operation, under every
assignment of tag numbers. -/
def Statement (i : Instr) : Prop :=
  ∀ w : WireParams, wellFormed w i = true → parseRow w (opcode i) (operandBytes w i) = .ok i

theorem crcInit : Statement .crcInit :=
  fun _ _ => rfl

theorem crcStep (b : Byte) : Statement (.crcStep b) :=
  fun _ _ => rfl

theorem crcOut : Statement .crcOut :=
  fun _ _ => rfl

theorem crc16 (bytes : List Byte) : Statement (.crc16 bytes) :=
  fun _ _ => rfl

theorem frmAdd (ch : Chan) (chunk : List Byte) : Statement (.frmAdd ch chunk) :=
  by cases ch <;> exact fun _ _ => rfl

theorem frmEvict (ch : Chan) : Statement (.frmEvict ch) :=
  by cases ch <;> exact fun _ _ => rfl

theorem frmAppend (ch : Chan) (chunk : List Byte) : Statement (.frmAppend ch chunk) :=
  by cases ch <;> exact fun _ _ => rfl

theorem frmLoop (ch : Chan) : Statement (.frmLoop ch) :=
  by cases ch <;> exact fun _ _ => rfl

theorem frmSearch (ch : Chan) : Statement (.frmSearch ch) :=
  by cases ch <;> exact fun _ _ => rfl

theorem frmWaitNocand (ch : Chan) : Statement (.frmWaitNocand ch) :=
  by cases ch <;> exact fun _ _ => rfl

theorem frmGarbage (ch : Chan) : Statement (.frmGarbage ch) :=
  by cases ch <;> exact fun _ _ => rfl

theorem frmXmWait (ch : Chan) : Statement (.frmXmWait ch) :=
  by cases ch <;> exact fun _ _ => rfl

theorem frmXm128 (ch : Chan) : Statement (.frmXm128 ch) :=
  by cases ch <;> exact fun _ _ => rfl

theorem frmXm1k (ch : Chan) : Statement (.frmXm1k ch) :=
  by cases ch <;> exact fun _ _ => rfl

theorem frmStdWait8 (ch : Chan) : Statement (.frmStdWait8 ch) :=
  by cases ch <;> exact fun _ _ => rfl

theorem frmStdBadpar (ch : Chan) : Statement (.frmStdBadpar ch) :=
  by cases ch <;> exact fun _ _ => rfl

theorem frmStdWaitlen (ch : Chan) : Statement (.frmStdWaitlen ch) :=
  by cases ch <;> exact fun _ _ => rfl

theorem frmStdBadcrc (ch : Chan) : Statement (.frmStdBadcrc ch) :=
  by cases ch <;> exact fun _ _ => rfl

theorem frmStdEmit (ch : Chan) : Statement (.frmStdEmit ch) :=
  by cases ch <;> exact fun _ _ => rfl

theorem frmTake (ch : Chan) : Statement (.frmTake ch) :=
  by cases ch <;> exact fun _ _ => rfl

theorem extDecode (ch : Chan) (frame : Frame) : Statement (.extDecode ch frame) := by
  intro w h
  have hlen : frame.payload.length ≤ 65535 := by simpa [wellFormed, payloadFits] using h
  have hmod : frame.payload.length % 65536 = frame.payload.length := Nat.mod_eq_of_lt (by omega)
  simp [opcode, operandBytes, parseRow, parseChan, parseFrame, chanOf_chanByte, be16Bytes, be16_be16Bytes, hmod]

theorem extSubid (p : List Byte) : Statement (.extSubid p) :=
  fun _ _ => rfl

theorem extExclude : Statement .extExclude :=
  fun _ _ => rfl

theorem extValreq (t : Byte) (n : Half) : Statement (.extValreq t n) :=
  fun _ _ => by simp [opcode, operandBytes, parseRow, be16Bytes, be16_be16Bytes]

theorem extTag (p : List Byte) : Statement (.extTag p) :=
  fun _ _ => rfl

theorem extUint8 (sub : Half) (v : List Byte) : Statement (.extUint8 sub v) :=
  fun _ _ => by simp [opcode, operandBytes, parseRow, parseTagged_payload]

theorem extUint16 (sub : Half) (v : List Byte) : Statement (.extUint16 sub v) :=
  fun _ _ => by simp [opcode, operandBytes, parseRow, parseTagged_payload]

theorem extUint32 (sub : Half) (v : List Byte) : Statement (.extUint32 sub v) :=
  fun _ _ => by simp [opcode, operandBytes, parseRow, parseTagged_payload]

theorem extVoid (sub : Half) (v : List Byte) : Statement (.extVoid sub v) :=
  fun _ _ => by simp [opcode, operandBytes, parseRow, parseTagged_payload]

theorem extBool (sub : Half) (v : List Byte) : Statement (.extBool sub v) :=
  fun _ _ => by simp [opcode, operandBytes, parseRow, parseTagged_payload]

theorem extBlob1 (sub : Half) (v : List Byte) : Statement (.extBlob1 sub v) :=
  fun _ _ => by simp [opcode, operandBytes, parseRow, parseTagged_payload]

theorem extBlob2 (sub : Half) (v : List Byte) : Statement (.extBlob2 sub v) :=
  fun _ _ => by simp [opcode, operandBytes, parseRow, parseTagged_payload]

theorem extRaw (sub : Half) (g : Byte) (v : List Byte) : Statement (.extRaw sub g v) :=
  fun _ _ => by simp [opcode, operandBytes, parseRow, payloadBytes, be16Bytes, be16_be16Bytes]

theorem extTrunc (p : List Byte) : Statement (.extTrunc p) :=
  fun _ _ => rfl

theorem extDir (ch : Chan) : Statement (.extDir ch) :=
  by cases ch <;> exact fun _ _ => rfl

theorem extType (t : Byte) : Statement (.extType t) :=
  fun _ _ => rfl

theorem extAck (t : Byte) (p : List Byte) : Statement (.extAck t p) :=
  fun _ _ => rfl

theorem extTrack (t : Byte) : Statement (.extTrack t) :=
  fun _ _ => rfl

theorem extZoneMotion : Statement .extZoneMotion :=
  fun _ _ => rfl

theorem extZonePresence : Statement .extZonePresence :=
  fun _ _ => rfl

theorem extBitmap : Statement .extBitmap :=
  fun _ _ => rfl

theorem extBitmapZone : Statement .extBitmapZone :=
  fun _ _ => rfl

theorem extZoneEnum : Statement .extZoneEnum :=
  fun _ _ => rfl

theorem extLrrev : Statement .extLrrev :=
  fun _ _ => rfl

theorem extMount : Statement .extMount :=
  fun _ _ => rfl

theorem reset : Statement .reset :=
  fun _ _ => rfl

end ParseOperands

end Sys2Proof.Laws
end

