-- ==== Sys2Proof/Laws/Ext.lean ====
section
/-! SUPPORT. What the shared operations of the extractor can do, once each. -/

namespace Sys2Proof.Machine

/-- A decoder either shows its result or falls back to EXT.RAW (R184). -/
theorem outGeneric_cases (k : TagKind) (g : Byte) (v : List Byte) (o : ExtOut) :
    (∃ r, genericOf k v = some r ∧ outGeneric k g v o = { o with generic := some r, value := .gen r }) ∨
    (genericOf k v = none ∧ outGeneric k g v o = { o with generic := none, value := .raw (g :: v) }) := by
  unfold outGeneric
  rcases genericOf k v with _ | r
  · exact .inr ⟨rfl, rfl⟩
  · exact .inl ⟨r, rfl, rfl⟩

/-- The decoder a kind selects is outGeneric at that kind (R184 to R191). -/
theorem outKind_eq (k : TagKind) : outKind k = outGeneric k := by
  cases k <;> rfl

/-- EXT.TAG writes `generic` and `value` alone, and what it writes to `generic` is decided by the payload (R184). -/
theorem outTag_cases (cfg : Params) (p : List Byte) : ∃ (g : Option Generic) (f : Value → Value),
    ∀ o : ExtOut, outTag cfg p o = { o with generic := g, value := f o.value } := by
  unfold outTag
  split
  · exact ⟨none, fun v => if v = .valreq then .valreq else .trunc, fun _ => rfl⟩
  · split
    · rename_i k _
      rw [outKind_eq]
      rcases hg : genericOf k (p.drop 3) with _ | r
      · exact ⟨none, fun _ => .raw (byteAt p 2 :: p.drop 3), fun o => by simp [outGeneric, hg, outRaw]⟩
      · exact ⟨some r, fun _ => .gen r, fun o => by simp [outGeneric, hg]⟩
    · exact ⟨none, fun _ => .raw (byteAt p 2 :: p.drop 3), fun _ => rfl⟩

/-- A blob is read exactly where its prefix and its bytes are present (R90). -/
theorem blobOf_eq_some_iff (v b : List Byte) :
    blobOf v = some b ↔
      2 ≤ v.length ∧ 2 + (be16 (byteAt v 0) (byteAt v 1)).toNat ≤ v.length ∧
      b = slice v 2 (2 + (be16 (byteAt v 0) (byteAt v 1)).toNat) := by
  unfold blobOf
  by_cases h1 : v.length < 2
  · simp [h1, show ¬ 2 ≤ v.length by omega]
  · by_cases h2 : v.length < 2 + (be16 (byteAt v 0) (byteAt v 1)).toNat
    · simp [h1, h2, show ¬ 2 + (be16 (byteAt v 0) (byteAt v 1)).toNat ≤ v.length by omega]
    · simp [h1, h2, show 2 ≤ v.length by omega, show 2 + (be16 (byteAt v 0) (byteAt v 1)).toNat ≤ v.length by omega, eq_comm]

/-- The overrides of a record with class NONE change nothing (R220, R229). -/
theorem outOverrides_of_none (cfg : Params) (t : Byte) {o : ExtOut} (h : o.cls = .none) : outOverrides cfg t o = o := by
  have h1 : outTrack cfg t o = o := by
    unfold outTrack; split <;> simp [h]
  have h2 : outZoneMotion o = o := by unfold outZoneMotion; simp [h]
  have h3 : outZonePresence o = o := by unfold outZonePresence; simp [h]
  have h4 : outBitmap o = o := by unfold outBitmap; split <;> simp [h]
  have h5 : outBitmapZone o = o := by unfold outBitmapZone; split <;> simp [h]
  have h6 : outZoneEnum o = o := by unfold outZoneEnum; simp [h, isZoneEnum]
  have h7 : outLrrev o = o := by unfold outLrrev; simp [h]
  have h8 : outMount o = o := by unfold outMount; simp [h]
  unfold outOverrides
  rw [h1, h2, h3, h4, h5, h6, h7, h8]

/-- An excluded message's record stops at EXT.EXCLUDE; any other's runs through (R180, R182). -/
theorem decodeOut_cases (cfg : Params) (ch : Chan) (f : Frame) :
    let o := outExclude cfg (outSubid cfg f.payload .empty)
    (o.suppressed = true ∧ decodeOut cfg ch f = o) ∨ (o.suppressed = false ∧ decodeOut cfg ch f = outBody cfg ch f o) := by
  intro o
  unfold decodeOut
  rcases h : o.suppressed
  · exact .inr ⟨rfl, by simp [o] at h; simp [h, o]⟩
  · exact .inl ⟨rfl, by simp [o] at h; simp [h, o]⟩

end Sys2Proof.Machine
end

