-- ==== Sys2Proof/Laws/State.lean ====
section
/-! SUPPORT. One lemma per field per update of the state, true by rfl, so that no proof unfolds a record update. -/

namespace Sys2Proof.Machine

@[simp] theorem State.setFrm_cfg (s : State) (ch : Chan) (f : Frm) : (s.setFrm ch f).cfg = s.cfg := by cases ch <;> rfl

@[simp] theorem State.setFrm_crcLo (s : State) (ch : Chan) (f : Frm) : (s.setFrm ch f).crcLo = s.crcLo := by cases ch <;> rfl

@[simp] theorem State.setFrm_crcHi (s : State) (ch : Chan) (f : Frm) : (s.setFrm ch f).crcHi = s.crcHi := by cases ch <;> rfl

@[simp] theorem State.setFrm_ext (s : State) (ch : Chan) (f : Frm) : (s.setFrm ch f).ext = s.ext := by cases ch <;> rfl

@[simp] theorem State.setFrm_ret (s : State) (ch : Chan) (f : Frm) : (s.setFrm ch f).ret = s.ret := by cases ch <;> rfl

@[simp] theorem State.setFrm_host (s : State) (ch : Chan) (f : Frm) : (s.setFrm ch f).host = s.host := by cases ch <;> rfl

@[simp] theorem State.setFrm_freeCount (s : State) (ch : Chan) (f : Frm) : (s.setFrm ch f).freeCount = s.freeCount := by cases ch <;> rfl

@[simp] theorem State.setFrm_frm (s : State) (ch : Chan) (f : Frm) : (s.setFrm ch f).frm ch = f := by
  cases ch <;> rfl

theorem State.setFrm_frm_of_ne (s : State) (f : Frm) {ch ch' : Chan} (h : ch' ≠ ch) :
    (s.setFrm ch f).frm ch' = s.frm ch' := by
  cases ch <;> cases ch' <;> first | rfl | exact absurd rfl h

@[simp] theorem State.setFrm_setFrm (s : State) (ch : Chan) (f g : Frm) :
    (s.setFrm ch f).setFrm ch g = s.setFrm ch g := by
  cases ch <;> rfl

@[simp] theorem State.setFrm_self (s : State) (ch : Chan) : s.setFrm ch (s.frm ch) = s := by
  cases ch <;> rfl

@[simp] theorem State.returning_cfg (s : State) (r : Ret) : (s.returning r).cfg = s.cfg := rfl

@[simp] theorem State.returning_crcLo (s : State) (r : Ret) : (s.returning r).crcLo = s.crcLo := rfl

@[simp] theorem State.returning_crcHi (s : State) (r : Ret) : (s.returning r).crcHi = s.crcHi := rfl

@[simp] theorem State.returning_frm0 (s : State) (r : Ret) : (s.returning r).frm0 = s.frm0 := rfl

@[simp] theorem State.returning_frm1 (s : State) (r : Ret) : (s.returning r).frm1 = s.frm1 := rfl

@[simp] theorem State.returning_ext (s : State) (r : Ret) : (s.returning r).ext = s.ext := rfl

@[simp] theorem State.returning_ret (s : State) (r : Ret) : (s.returning r).ret = r := rfl

@[simp] theorem State.returning_host (s : State) (r : Ret) : (s.returning r).host = s.host := rfl

@[simp] theorem State.returning_freeCount (s : State) (r : Ret) : (s.returning r).freeCount = s.freeCount := rfl

@[simp] theorem State.returning_frm (s : State) (r : Ret) (ch : Chan) : (s.returning r).frm ch = s.frm ch := by cases ch <;> rfl

@[simp] theorem State.setExt_cfg (s : State) (o : ExtOut) : (s.setExt o).cfg = s.cfg := rfl

@[simp] theorem State.setExt_crcLo (s : State) (o : ExtOut) : (s.setExt o).crcLo = s.crcLo := rfl

@[simp] theorem State.setExt_crcHi (s : State) (o : ExtOut) : (s.setExt o).crcHi = s.crcHi := rfl

@[simp] theorem State.setExt_frm0 (s : State) (o : ExtOut) : (s.setExt o).frm0 = s.frm0 := rfl

@[simp] theorem State.setExt_frm1 (s : State) (o : ExtOut) : (s.setExt o).frm1 = s.frm1 := rfl

@[simp] theorem State.setExt_ext (s : State) (o : ExtOut) : (s.setExt o).ext = o := rfl

@[simp] theorem State.setExt_ret (s : State) (o : ExtOut) : (s.setExt o).ret = s.ret := rfl

@[simp] theorem State.setExt_host (s : State) (o : ExtOut) : (s.setExt o).host = s.host := rfl

@[simp] theorem State.setExt_freeCount (s : State) (o : ExtOut) : (s.setExt o).freeCount = s.freeCount := rfl

@[simp] theorem State.setExt_frm (s : State) (o : ExtOut) (ch : Chan) : (s.setExt o).frm ch = s.frm ch := by cases ch <;> rfl

@[simp] theorem State.setCrc_cfg (s : State) (acc : Byte × Byte) : (s.setCrc acc).cfg = s.cfg := rfl

@[simp] theorem State.setCrc_crcLo (s : State) (acc : Byte × Byte) : (s.setCrc acc).crcLo = acc.1 := rfl

@[simp] theorem State.setCrc_crcHi (s : State) (acc : Byte × Byte) : (s.setCrc acc).crcHi = acc.2 := rfl

@[simp] theorem State.setCrc_frm0 (s : State) (acc : Byte × Byte) : (s.setCrc acc).frm0 = s.frm0 := rfl

@[simp] theorem State.setCrc_frm1 (s : State) (acc : Byte × Byte) : (s.setCrc acc).frm1 = s.frm1 := rfl

@[simp] theorem State.setCrc_ext (s : State) (acc : Byte × Byte) : (s.setCrc acc).ext = s.ext := rfl

@[simp] theorem State.setCrc_ret (s : State) (acc : Byte × Byte) : (s.setCrc acc).ret = s.ret := rfl

@[simp] theorem State.setCrc_host (s : State) (acc : Byte × Byte) : (s.setCrc acc).host = s.host := rfl

@[simp] theorem State.setCrc_freeCount (s : State) (acc : Byte × Byte) : (s.setCrc acc).freeCount = s.freeCount := rfl

@[simp] theorem State.setCrc_frm (s : State) (acc : Byte × Byte) (ch : Chan) : (s.setCrc acc).frm ch = s.frm ch := by cases ch <;> rfl

@[simp] theorem State.crcDone_cfg (s : State) : (s.crcDone).cfg = s.cfg := rfl

@[simp] theorem State.crcDone_crcLo (s : State) : (s.crcDone).crcLo = Config.freeCrcLo s.freeCount := rfl

@[simp] theorem State.crcDone_crcHi (s : State) : (s.crcDone).crcHi = Config.freeCrcHi s.freeCount := rfl

@[simp] theorem State.crcDone_frm0 (s : State) : (s.crcDone).frm0 = s.frm0 := rfl

@[simp] theorem State.crcDone_frm1 (s : State) : (s.crcDone).frm1 = s.frm1 := rfl

@[simp] theorem State.crcDone_ext (s : State) : (s.crcDone).ext = s.ext := rfl

@[simp] theorem State.crcDone_ret (s : State) : (s.crcDone).ret = s.ret := rfl

@[simp] theorem State.crcDone_host (s : State) : (s.crcDone).host = s.host := rfl

@[simp] theorem State.crcDone_freeCount (s : State) : (s.crcDone).freeCount = s.freeCount + 1 := rfl

@[simp] theorem State.crcDone_frm (s : State) (ch : Chan) : (s.crcDone).frm ch = s.frm ch := by cases ch <;> rfl

@[simp] theorem State.extStep_cfg (s : State) (o : ExtOut) : (s.extStep o).cfg = s.cfg := rfl

@[simp] theorem State.extStep_crcLo (s : State) (o : ExtOut) : (s.extStep o).crcLo = s.crcLo := rfl

@[simp] theorem State.extStep_crcHi (s : State) (o : ExtOut) : (s.extStep o).crcHi = s.crcHi := rfl

@[simp] theorem State.extStep_frm0 (s : State) (o : ExtOut) : (s.extStep o).frm0 = s.frm0 := rfl

@[simp] theorem State.extStep_frm1 (s : State) (o : ExtOut) : (s.extStep o).frm1 = s.frm1 := rfl

@[simp] theorem State.extStep_ext (s : State) (o : ExtOut) : (s.extStep o).ext = o := rfl

@[simp] theorem State.extStep_ret (s : State) (o : ExtOut) : (s.extStep o).ret = .nothing := rfl

@[simp] theorem State.extStep_host (s : State) (o : ExtOut) : (s.extStep o).host = s.host := rfl

@[simp] theorem State.extStep_freeCount (s : State) (o : ExtOut) : (s.extStep o).freeCount = s.freeCount := rfl

@[simp] theorem State.extStep_frm (s : State) (o : ExtOut) (ch : Chan) : (s.extStep o).frm ch = s.frm ch := by cases ch <;> rfl

theorem State.returning_setFrm (s : State) (r : Ret) (ch : Chan) (f : Frm) :
    (s.setFrm ch f).returning r = (s.returning r).setFrm ch f := by
  cases ch <;> rfl

theorem State.setExt_setFrm (s : State) (o : ExtOut) (ch : Chan) (f : Frm) :
    (s.setFrm ch f).setExt o = (s.setExt o).setFrm ch f := by
  cases ch <;> rfl

theorem State.setCrc_setFrm (s : State) (acc : Byte × Byte) (ch : Chan) (f : Frm) :
    (s.setFrm ch f).setCrc acc = (s.setCrc acc).setFrm ch f := by
  cases ch <;> rfl

theorem State.crcDone_setFrm (s : State) (ch : Chan) (f : Frm) :
    (s.setFrm ch f).crcDone = (s.crcDone).setFrm ch f := by
  cases ch <;> rfl

@[simp] theorem Frm.append_buf (f : Frm) (chunk : List Byte) :
    (f.append chunk).buf = f.buf ++ chunk := rfl

@[simp] theorem Frm.append_ready (f : Frm) (chunk : List Byte) :
    (f.append chunk).ready = f.ready := rfl

@[simp] theorem Frm.append_xmLast (f : Frm) (chunk : List Byte) :
    (f.append chunk).xmLast = f.xmLast := rfl

@[simp] theorem Frm.append_xmGap (f : Frm) (chunk : List Byte) :
    (f.append chunk).xmGap = f.xmGap := rfl

@[simp] theorem Frm.append_xmDup (f : Frm) (chunk : List Byte) :
    (f.append chunk).xmDup = f.xmDup := rfl

@[simp] theorem Frm.append_ev (f : Frm) (chunk : List Byte) :
    (f.append chunk).ev = f.ev := rfl

@[simp] theorem Frm.append_rx (f : Frm) (chunk : List Byte) :
    (f.append chunk).rx = f.rx ++ chunk := rfl

@[simp] theorem Frm.append_hist (f : Frm) (chunk : List Byte) :
    (f.append chunk).hist = f.hist := rfl

@[simp] theorem Frm.consume_buf (f : Frm) (n : Nat) (sp : Span) :
    (f.consume n sp).buf = f.buf.drop n := rfl

@[simp] theorem Frm.consume_ready (f : Frm) (n : Nat) (sp : Span) :
    (f.consume n sp).ready = f.ready := rfl

@[simp] theorem Frm.consume_xmLast (f : Frm) (n : Nat) (sp : Span) :
    (f.consume n sp).xmLast = f.xmLast := rfl

@[simp] theorem Frm.consume_xmGap (f : Frm) (n : Nat) (sp : Span) :
    (f.consume n sp).xmGap = f.xmGap := rfl

@[simp] theorem Frm.consume_xmDup (f : Frm) (n : Nat) (sp : Span) :
    (f.consume n sp).xmDup = f.xmDup := rfl

@[simp] theorem Frm.consume_ev (f : Frm) (n : Nat) (sp : Span) :
    (f.consume n sp).ev = f.ev := rfl

@[simp] theorem Frm.consume_rx (f : Frm) (n : Nat) (sp : Span) :
    (f.consume n sp).rx = f.rx := rfl

@[simp] theorem Frm.consume_hist (f : Frm) (n : Nat) (sp : Span) :
    (f.consume n sp).hist = f.hist ++ [sp] := rfl

@[simp] theorem Frm.raise_buf (f : Frm) (ch : Chan) (n : Nat) (r : Reason) :
    (f.raise ch n r).buf = f.buf.drop n := rfl

@[simp] theorem Frm.raise_ready (f : Frm) (ch : Chan) (n : Nat) (r : Reason) :
    (f.raise ch n r).ready = f.ready := rfl

@[simp] theorem Frm.raise_xmLast (f : Frm) (ch : Chan) (n : Nat) (r : Reason) :
    (f.raise ch n r).xmLast = f.xmLast := rfl

@[simp] theorem Frm.raise_xmGap (f : Frm) (ch : Chan) (n : Nat) (r : Reason) :
    (f.raise ch n r).xmGap = f.xmGap := rfl

@[simp] theorem Frm.raise_xmDup (f : Frm) (ch : Chan) (n : Nat) (r : Reason) :
    (f.raise ch n r).xmDup = f.xmDup := rfl

@[simp] theorem Frm.raise_ev (f : Frm) (ch : Chan) (n : Nat) (r : Reason) :
    (f.raise ch n r).ev = f.ev ++ [.diag ch (f.buf.take n) r] := rfl

@[simp] theorem Frm.raise_rx (f : Frm) (ch : Chan) (n : Nat) (r : Reason) :
    (f.raise ch n r).rx = f.rx := rfl

@[simp] theorem Frm.raise_hist (f : Frm) (ch : Chan) (n : Nat) (r : Reason) :
    (f.raise ch n r).hist = f.hist ++ [.diag (f.buf.take n) r] := rfl

@[simp] theorem Frm.evict_buf (f : Frm) (ch : Chan) :
    (f.evict ch).buf = f.buf.drop (f.buf.length - Config.tailKeep) := by
  rw [Frm.evict, Frm.raise_buf]

@[simp] theorem Frm.evict_ready (f : Frm) (ch : Chan) :
    (f.evict ch).ready = f.ready := by
  rw [Frm.evict, Frm.raise_ready]

@[simp] theorem Frm.evict_xmLast (f : Frm) (ch : Chan) :
    (f.evict ch).xmLast = f.xmLast := by
  rw [Frm.evict, Frm.raise_xmLast]

@[simp] theorem Frm.evict_xmGap (f : Frm) (ch : Chan) :
    (f.evict ch).xmGap = f.xmGap := by
  rw [Frm.evict, Frm.raise_xmGap]

@[simp] theorem Frm.evict_xmDup (f : Frm) (ch : Chan) :
    (f.evict ch).xmDup = f.xmDup := by
  rw [Frm.evict, Frm.raise_xmDup]

@[simp] theorem Frm.evict_ev (f : Frm) (ch : Chan) :
    (f.evict ch).ev = f.ev ++ [.diag ch (f.buf.take (f.buf.length - Config.tailKeep)) .bufferOverflow] := by
  rw [Frm.evict, Frm.raise_ev]

@[simp] theorem Frm.evict_rx (f : Frm) (ch : Chan) :
    (f.evict ch).rx = f.rx := by
  rw [Frm.evict, Frm.raise_rx]

@[simp] theorem Frm.evict_hist (f : Frm) (ch : Chan) :
    (f.evict ch).hist = f.hist ++ [.diag (f.buf.take (f.buf.length - Config.tailKeep)) .bufferOverflow] := by
  rw [Frm.evict, Frm.raise_hist]

@[simp] theorem Frm.xmBlock_buf (f : Frm) (ch : Chan) (n : BlkLen) :
    (f.xmBlock ch n).buf = f.buf.drop (blkTotal n) := rfl

@[simp] theorem Frm.xmBlock_ready (f : Frm) (ch : Chan) (n : BlkLen) :
    (f.xmBlock ch n).ready = f.ready := rfl

@[simp] theorem Frm.xmBlock_xmLast (f : Frm) (ch : Chan) (n : BlkLen) :
    (f.xmBlock ch n).xmLast = some (byteAt f.buf 1) := rfl

@[simp] theorem Frm.xmBlock_xmGap (f : Frm) (ch : Chan) (n : BlkLen) :
    (f.xmBlock ch n).xmGap = xmGapFlag f.xmLast (byteAt f.buf 1) := rfl

@[simp] theorem Frm.xmBlock_xmDup (f : Frm) (ch : Chan) (n : BlkLen) :
    (f.xmBlock ch n).xmDup = xmDupFlag f.xmLast (byteAt f.buf 1) := rfl

@[simp] theorem Frm.xmBlock_ev (f : Frm) (ch : Chan) (n : BlkLen) :
    (f.xmBlock ch n).ev = f.ev ++ [.xm ch (byteAt f.buf 1) n] := rfl

@[simp] theorem Frm.xmBlock_rx (f : Frm) (ch : Chan) (n : BlkLen) :
    (f.xmBlock ch n).rx = f.rx := rfl

@[simp] theorem Frm.xmBlock_hist (f : Frm) (ch : Chan) (n : BlkLen) :
    (f.xmBlock ch n).hist = f.hist ++ [.xm (byteAt f.buf 1) n (f.buf.take (blkTotal n))] := rfl

@[simp] theorem Frm.push_buf (f : Frm) (len : Nat) :
    (f.push len).buf = f.buf.drop (Config.stdHdr + len + Config.stdTrl) := rfl

@[simp] theorem Frm.push_ready (f : Frm) (len : Nat) :
    (f.push len).ready = f.ready ++ [frameOf f.buf len] := rfl

@[simp] theorem Frm.push_xmLast (f : Frm) (len : Nat) :
    (f.push len).xmLast = f.xmLast := rfl

@[simp] theorem Frm.push_xmGap (f : Frm) (len : Nat) :
    (f.push len).xmGap = f.xmGap := rfl

@[simp] theorem Frm.push_xmDup (f : Frm) (len : Nat) :
    (f.push len).xmDup = f.xmDup := rfl

@[simp] theorem Frm.push_ev (f : Frm) (len : Nat) :
    (f.push len).ev = f.ev := rfl

@[simp] theorem Frm.push_rx (f : Frm) (len : Nat) :
    (f.push len).rx = f.rx := rfl

@[simp] theorem Frm.push_hist (f : Frm) (len : Nat) :
    (f.push len).hist = f.hist ++ [.frame (frameOf f.buf len)] := rfl

/-- Every state update of the loop is a replacement of one instance, with the CRC accumulator freed by a CRC16. -/
theorem State.garbage_def (s : State) (ch : Chan) (i : Nat) :
    s.garbage ch i = s.setFrm ch ((s.frm ch).raise ch i .garbageBeforeHeader) := rfl

theorem State.xmBlock_def (s : State) (ch : Chan) (n : BlkLen) :
    s.xmBlock ch n = s.setFrm ch ((s.frm ch).xmBlock ch n) := rfl

theorem State.badpar_def (s : State) (ch : Chan) :
    s.badpar ch = s.setFrm ch ((s.frm ch).raise ch Config.stdDiscard .badHeaderParity) := rfl

theorem State.badcrc_def (s : State) (ch : Chan) :
    s.badcrc ch = (s.setFrm ch ((s.frm ch).raise ch Config.stdDiscard .badCrc)).crcDone := rfl

theorem State.emit_def (s : State) (ch : Chan) (len : Nat) :
    s.emit ch len = (s.setFrm ch ((s.frm ch).push len)).crcDone := rfl

theorem State.evict_def (s : State) (ch : Chan) : s.evict ch = s.setFrm ch ((s.frm ch).evict ch) := rfl

theorem State.append_def (s : State) (ch : Chan) (chunk : List Byte) :
    s.append ch chunk = s.setFrm ch ((s.frm ch).append chunk) := rfl

/-! ### Constants (R6) and block sizes (R83) as numerals, the form the arithmetic procedures read -/

@[simp] theorem config_maxBufSize : Config.maxBufSize = 131072 := rfl

@[simp] theorem config_tailKeep : Config.tailKeep = 4096 := rfl

@[simp] theorem config_stdDiscard : Config.stdDiscard = 3 := rfl

@[simp] theorem config_stdHdr : Config.stdHdr = 8 := rfl

@[simp] theorem config_stdTrl : Config.stdTrl = 2 := rfl

@[simp] theorem config_xmHdr : Config.xmHdr = 3 := rfl

@[simp] theorem config_xmTrl : Config.xmTrl = 2 := rfl

@[simp] theorem config_trackRec : Config.trackRec = 14 := rfl

@[simp] theorem config_bitmapRows : Config.bitmapRows = 20 := rfl

@[simp] theorem blkTotal_n128 : blkTotal .n128 = 133 := rfl

@[simp] theorem blkTotal_n1024 : blkTotal .n1024 = 1029 := rfl

end Sys2Proof.Machine
end

