-- ==== Sys2Proof/Laws/Frame.lean ====
section
/-! SUPPORT. The stimulus FRAME at the head of a buffer, and reads through a prefix. -/

namespace Sys2Proof.Machine

/-- A read inside a prefix is the read of the whole. -/
theorem byteAt_slice_zero {l : List Byte} {n i : Nat} (h : i < n) : byteAt (slice l 0 n) i = byteAt l i := by
  simp [byteAt, slice, h]

/-- A slice inside a prefix is the slice of the whole. -/
theorem slice_slice_zero {l : List Byte} {n i j : Nat} (h : j ≤ n) : slice (slice l 0 n) i j = slice l i j := by
  simp [slice, List.take_take, h]

/-- The bytes of a frame, spelled out (R80 to R82, R98). -/
theorem frameBytes_eq (cfg : Params) (seq type : Byte) (p : List Byte) :
    ∃ h7 c0 c1 : Byte,
      frameBytes cfg seq type p = 0x55 :: 0x00 :: 0x01 :: seq :: type :: ((BitVec.ofNat 16 p.length).extractLsb' 8 8) ::
        ((BitVec.ofNat 16 p.length).extractLsb' 0 8) :: h7 :: (p ++ [c0, c1]) ∧
      h7 = hdrChk cfg.wire [0x55, 0x00, 0x01, seq, type, ((BitVec.ofNat 16 p.length).extractLsb' 8 8), ((BitVec.ofNat 16 p.length).extractLsb' 0 8)] ∧
      crc16 cfg.tables (0x55 :: 0x00 :: 0x01 :: seq :: type :: ((BitVec.ofNat 16 p.length).extractLsb' 8 8) ::
        ((BitVec.ofNat 16 p.length).extractLsb' 0 8) :: h7 :: p) = (c0, c1) := by
  refine ⟨_, _, _, ?_, rfl, rfl⟩
  simp only [frameBytes, frameHead, be16Bytes, Config.stdMarker, List.cons_append, List.nil_append]
  rfl

/-- A frame at the head of the buffer, whatever follows it, is emitted, and the fields read from it are the ones it was built
from (R143, R154, R98). -/
theorem selectLeaf_frameBytes (cfg : Params) (seq type : Byte) (p rest : List Byte) (hp : p.length ≤ 65535) :
    selectLeaf cfg (frameBytes cfg seq type p ++ rest) = .stdEmit p.length ∧
    frameOf (frameBytes cfg seq type p ++ rest) p.length =
      { sequence := seq, type := type, payload := p, raw := frameBytes cfg seq type p } ∧
    (frameBytes cfg seq type p).length = p.length + 10 := by
  obtain ⟨h7, c0, c1, hf, hh, hc⟩ := frameBytes_eq cfg seq type p
  rw [hf]
  set L1 := (BitVec.ofNat 16 p.length).extractLsb' 8 8
  set L0 := (BitVec.ofNat 16 p.length).extractLsb' 0 8
  have hd : declLen (0x55 :: 0x00 :: 0x01 :: seq :: type :: L1 :: L0 :: h7 :: (p ++ [c0, c1]) ++ rest) = p.length := by
    have : be16 L1 L0 = BitVec.ofNat 16 p.length := Sys2Proof.Laws.be16_be16Bytes _
    simp only [declLen, byteAt, List.cons_append, List.getD_cons_succ, List.getD_cons_zero, this, BitVec.toNat_ofNat]
    omega
  have hs : search cfg.wire (0x55 :: 0x00 :: 0x01 :: seq :: type :: L1 :: L0 :: h7 :: (p ++ [c0, c1]) ++ rest) = some (0, .std) := by
    simp [search, candidateAt, isMarker]
  have h8 : have8 (0x55 :: 0x00 :: 0x01 :: seq :: type :: L1 :: L0 :: h7 :: (p ++ [c0, c1]) ++ rest) = true := by simp [have8]
  have hpar : parOk cfg.wire (0x55 :: 0x00 :: 0x01 :: seq :: type :: L1 :: L0 :: h7 :: (p ++ [c0, c1]) ++ rest) = true := by
    simp [parOk, byteAt, slice, hh]
  have hall : haveAll (0x55 :: 0x00 :: 0x01 :: seq :: type :: L1 :: L0 :: h7 :: (p ++ [c0, c1]) ++ rest) = true := by
    simp only [haveAll, hd]; simp; omega
  have e1 : slice (0x55 :: 0x00 :: 0x01 :: seq :: type :: L1 :: L0 :: h7 :: (p ++ [c0, c1]) ++ rest) 0 (8 + p.length) = 0x55 :: 0x00 :: 0x01 :: seq :: type :: L1 :: L0 :: h7 :: p := by
    have : 0x55 :: 0x00 :: 0x01 :: seq :: type :: L1 :: L0 :: h7 :: (p ++ [c0, c1]) ++ rest = (0x55 :: 0x00 :: 0x01 :: seq :: type :: L1 :: L0 :: h7 :: p) ++ ([c0,c1] ++ rest) := by simp
    rw [this, slice, List.drop_zero, List.take_append_of_le_length (by simp; omega), List.take_of_length_le (by simp; omega)]
  have e2 : byteAt (0x55 :: 0x00 :: 0x01 :: seq :: type :: L1 :: L0 :: h7 :: (p ++ [c0, c1]) ++ rest) (8 + p.length) = c0 := by
    have : 0x55 :: 0x00 :: 0x01 :: seq :: type :: L1 :: L0 :: h7 :: (p ++ [c0, c1]) ++ rest = (0x55 :: 0x00 :: 0x01 :: seq :: type :: L1 :: L0 :: h7 :: p) ++ ([c0,c1] ++ rest) := by simp
    rw [this, byteAt, List.getD_append_right _ _ _ _ (by simp; omega)]
    simp [show 8 + p.length - (p.length + 1 + 1 + 1+1+1+1+1+1) = 0 by omega]
  have e3 : byteAt (0x55 :: 0x00 :: 0x01 :: seq :: type :: L1 :: L0 :: h7 :: (p ++ [c0, c1]) ++ rest) (8 + p.length + 1) = c1 := by
    have : 0x55 :: 0x00 :: 0x01 :: seq :: type :: L1 :: L0 :: h7 :: (p ++ [c0, c1]) ++ rest = (0x55 :: 0x00 :: 0x01 :: seq :: type :: L1 :: L0 :: h7 :: p) ++ ([c0,c1] ++ rest) := by simp
    rw [this, byteAt, List.getD_append_right _ _ _ _ (by simp; omega)]
    simp [show 8 + p.length + 1 - (p.length + 1 + 1 + 1+1+1+1+1+1) = 1 by omega]
  have hcrc : crcOk cfg.tables (0x55 :: 0x00 :: 0x01 :: seq :: type :: L1 :: L0 :: h7 :: (p ++ [c0, c1]) ++ rest) = true := by
    simp only [crcOk, hd, config_stdHdr, e1, e2, e3, hc, beq_self_eq_true]
  refine ⟨?_, ?_, by simp⟩
  · unfold selectLeaf
    rw [hs]
    simp only [h8, hpar, hall, hcrc, hd]; simp
  · have e4 : slice (0x55 :: 0x00 :: 0x01 :: seq :: type :: L1 :: L0 :: h7 :: (p ++ [c0, c1]) ++ rest) 8 (8 + p.length) = p := by
      rw [slice, Nat.add_comm 8]
      simp
    have e5 : slice (0x55 :: 0x00 :: 0x01 :: seq :: type :: L1 :: L0 :: h7 :: (p ++ [c0, c1]) ++ rest) 0 (8 + p.length + 2) = 0x55 :: 0x00 :: 0x01 :: seq :: type :: L1 :: L0 :: h7 :: (p ++ [c0, c1]) := by
      rw [slice, List.drop_zero, List.take_append_of_le_length (by simp; omega), List.take_of_length_le (by simp; omega)]
    simp only [frameOf, config_stdHdr, config_stdTrl, e4, e5]
    simp [byteAt]

end Sys2Proof.Machine
end

