-- ==== Sys2Proof/Laws/Ops.lean ====
section
/-! SUPPORT. What the shared operations can do, once each: the search, the selection of a leaf, one iteration of the loop and
the loop. -/

namespace Sys2Proof.Machine

/-! ### The search (R144) -/

/-- The candidate test looks at the first three bytes alone: bytes appended later cannot change a candidate. -/
theorem candidateAt_append {w : WireParams} {a b : List Byte} {k : FmtKind} (h : candidateAt w a = some k) :
    candidateAt w (a ++ b) = some k := by
  match a, h with
  | _ :: _ :: _ :: _, h => exact h

/-- A candidate has its three bytes (R85). -/
theorem candidateAt_length {w : WireParams} {a : List Byte} {k : FmtKind} (h : candidateAt w a = some k) :
    3 ≤ a.length := by
  match a, h with
  | _ :: _ :: _ :: _, _ => simp

/-- The search finds a candidate at the offset it answers. -/
theorem search_candidate {w : WireParams} {buf : List Byte} {i : Nat} {k : FmtKind}
    (h : search w buf = some (i, k)) : candidateAt w (buf.drop i) = some k := by
  induction buf generalizing i with
  | nil => simp [search] at h
  | cons x rest ih =>
    rw [search] at h
    split at h
    · rename_i k' hk
      obtain ⟨rfl, rfl⟩ : 0 = i ∧ k' = k := by simpa using h
      simpa using hk
    · obtain ⟨⟨j, k'⟩, hj, hjk⟩ := Option.map_eq_some_iff.mp h
      obtain ⟨rfl, rfl⟩ : j + 1 = i ∧ k' = k := by simpa using hjk
      simpa using ih hj

/-- The search's offset leaves the candidate's three bytes inside the buffer. -/
theorem search_lt {w : WireParams} {buf : List Byte} {i : Nat} {k : FmtKind}
    (h : search w buf = some (i, k)) : i + 3 ≤ buf.length := by
  have := candidateAt_length (search_candidate h)
  rw [List.length_drop] at this
  omega

/-! ### The leaf (R143) -/

/-- Everything the selection of a leaf says about the buffer: the conditions on the path of R143's tree. -/
theorem selectLeaf_cases (cfg : Params) (buf : List Byte) :
    (selectLeaf cfg buf = .waitNocand ∧ search cfg.wire buf = none) ∨
    (∃ i k, selectLeaf cfg buf = .garbage i ∧ search cfg.wire buf = some (i, k) ∧ 0 < i) ∨
    (search cfg.wire buf = some (0, .xm) ∧
      ((selectLeaf cfg buf = .xmWait ∧ haveBlock cfg.wire buf = false) ∨
       (selectLeaf cfg buf = .xm128 ∧ haveBlock cfg.wire buf = true ∧ blkOf cfg.wire (byteAt buf 0) = .n128) ∨
       (selectLeaf cfg buf = .xm1k ∧ haveBlock cfg.wire buf = true ∧ blkOf cfg.wire (byteAt buf 0) = .n1024))) ∨
    (search cfg.wire buf = some (0, .std) ∧
      ((selectLeaf cfg buf = .stdWait8 ∧ have8 buf = false) ∨
       (selectLeaf cfg buf = .stdBadpar ∧ have8 buf = true ∧ parOk cfg.wire buf = false) ∨
       (selectLeaf cfg buf = .stdWaitlen ∧ have8 buf = true ∧ parOk cfg.wire buf = true ∧ haveAll buf = false) ∨
       (selectLeaf cfg buf = .stdBadcrc ∧ have8 buf = true ∧ parOk cfg.wire buf = true ∧ haveAll buf = true ∧
         crcOk cfg.tables buf = false) ∨
       (selectLeaf cfg buf = .stdEmit (declLen buf) ∧ have8 buf = true ∧ parOk cfg.wire buf = true ∧
         haveAll buf = true ∧ crcOk cfg.tables buf = true))) := by
  unfold selectLeaf
  rcases hs : search cfg.wire buf with _ | ⟨i, k⟩
  · simp
  · rcases Nat.eq_zero_or_pos i with rfl | hi
    · cases k
      · cases h8 : have8 buf <;> cases hp : parOk cfg.wire buf <;> cases ha : haveAll buf <;>
          cases hc : crcOk cfg.tables buf <;> simp
      · cases hb : haveBlock cfg.wire buf <;> cases hk : blkOf cfg.wire (byteAt buf 0) <;> simp
    · simp [hi]

/-! ### One iteration and the loop (R143) -/

/-- Everything one iteration can do: wait with no change, or one leaf's effect on the state. -/
theorem loopStep_cases {s t : State} {ch : Chan} (h : s.loopStep ch = some t) :
    (∃ i, s.leaf ch = .garbage i ∧ t = s.garbage ch i) ∨
    (s.leaf ch = .xm128 ∧ t = s.xmBlock ch .n128) ∨
    (s.leaf ch = .xm1k ∧ t = s.xmBlock ch .n1024) ∨
    (s.leaf ch = .stdBadpar ∧ t = s.badpar ch) ∨
    (s.leaf ch = .stdBadcrc ∧ t = s.badcrc ch) ∨
    (∃ len, s.leaf ch = .stdEmit len ∧ t = s.emit ch len) := by
  unfold State.loopStep at h
  split at h <;> simp_all

/-- An invariant that each iteration keeps, the loop keeps. -/
theorem loopFor_induction {P : State → Prop} {ch : Chan}
    (hstep : ∀ s t, P s → s.loopStep ch = some t → P t) (n : Nat) {s : State} (hs : P s) : P (s.loopFor n ch) := by
  induction n generalizing s with
  | zero => exact hs
  | succ n ih =>
    rw [State.loopFor]
    split
    · exact hs
    · exact ih (hstep _ _ hs ‹_›)

/-- The same for the whole loop. -/
theorem loop_induction {P : State → Prop} {ch : Chan}
    (hstep : ∀ s t, P s → s.loopStep ch = some t → P t) {s : State} (hs : P s) : P (s.loop ch) :=
  loopFor_induction hstep _ hs

/-! ### Step -/

/-- Everything an accepted record says: its row parsed, and the operation is well-formed. -/
theorem decode_ok {w : WireParams} {r : List Byte} {i : Instr} (h : decode w r = .ok i) :
    ∃ op args, r = op :: args ∧ parseRow w op args = .ok i ∧ wellFormed w i = true := by
  match r with
  | [] => simp [decode] at h
  | op :: args =>
    rcases hp : parseRow w op args with e | j
    · simp [decode, hp] at h
    · rcases hw : wellFormed w j
      · simp [decode, hp, hw] at h
      · obtain rfl : j = i := by simpa [decode, hp, hw] using h
        exact ⟨op, args, rfl, hp, hw⟩

/-- Everything a step can do: idle, or run the decoded operation, or refuse a record that is none. -/
theorem step_cases (s : State) :
    (s.host = [] ∧ step s = .next s) ∨
    (∃ r rest i, s.host = r :: rest ∧ decode s.cfg.wire r = .ok i ∧ step s = exec i { s with host := rest }) ∨
    (∃ r rest e, s.host = r :: rest ∧ decode s.cfg.wire r = .error e ∧ step s = .refused (.badRecord e)) := by
  unfold step
  rcases hh : s.host with _ | ⟨r, rest⟩
  · simp
  · rcases hd : decode s.cfg.wire r with e | i <;> simp [hd]

end Sys2Proof.Machine
end

