-- ==== Sys2Proof/Laws/Loop.lean ====
section
/-! SUPPORT. The loop as a whole: what an iteration consumes, that the loop ends at a wait, that bytes appended later change
no iteration already selected, and running additions in a row. -/

namespace Sys2Proof.Machine

theorem search_append {w : WireParams} {a b : List Byte} {r : Nat × FmtKind} (h : search w a = some r) :
    search w (a ++ b) = some r := by
  induction a generalizing r with
  | nil => simp [search] at h
  | cons x rest ih =>
    have hc := @candidateAt_append w (x :: rest) b
    rw [search] at h
    rw [List.cons_append, search]
    split at h
    · rename_i k hk
      have := hc hk
      rw [List.cons_append] at this
      rw [this]; exact h
    · rename_i hnone
      obtain ⟨q, hq, hqr⟩ := Option.map_eq_some_iff.mp h
      have h3 : 3 ≤ rest.length := by
        have := search_lt (i := q.1) (k := q.2) (by simpa using hq); omega
      have : candidateAt w (x :: (rest ++ b)) = none := by
        match rest, h3, hnone with
        | p :: q :: _, _, hnone => exact hnone
      rw [this, ih hq]
      simpa using hqr

theorem byteAt_append {a b : List Byte} {i : Nat} (h : i < a.length) : byteAt (a ++ b) i = byteAt a i := by
  simp [byteAt, List.getElem?_append_left h]

theorem slice_append {a b : List Byte} {i j : Nat} (h : j ≤ a.length) : slice (a ++ b) i j = slice a i j := by
  simp [slice, List.take_append_of_le_length h]

/-- A leaf that is no wait stays selected when bytes are appended (R159). -/
theorem selectLeaf_append {cfg : Params} {a b : List Byte} (h : isWait (selectLeaf cfg a) = false) :
    selectLeaf cfg (a ++ b) = selectLeaf cfg a := by
  rcases selectLeaf_cases cfg a with ⟨hl, hs⟩ | ⟨i, k, hl, hs, hi⟩ | ⟨hs, hx⟩ | ⟨hs, hx⟩
  · simp [hl, isWait] at h
  · rw [hl]; unfold selectLeaf; rw [search_append hs]; simp [hi]
  · have h3 := search_lt hs
    have hb0 : byteAt (a ++ b) 0 = byteAt a 0 := byteAt_append (by omega)
    rcases hx with ⟨hl, _⟩ | ⟨hl, hb, hk⟩ | ⟨hl, hb, hk⟩
    · simp [hl, isWait] at h
    all_goals
      have hb' : haveBlock cfg.wire (a ++ b) = true := by
        simp only [haveBlock, hb0, decide_eq_true_eq, List.length_append] at hb ⊢; omega
      rw [hl]; unfold selectLeaf; rw [search_append hs]; simp [hb', hb0, hk]
  · have h3 := search_lt hs
    rcases hx with ⟨hl, _⟩ | ⟨hl, h8, hp⟩ | ⟨hl, h8, hp, ha⟩ | ⟨hl, h8, hp, ha, hc⟩ | ⟨hl, h8, hp, ha, hc⟩
    · simp [hl, isWait] at h
    · have h8' : 8 ≤ a.length := by simpa [have8] using h8
      have e8 : have8 (a ++ b) = true := by simp [have8]; omega
      have ep : parOk cfg.wire (a ++ b) = parOk cfg.wire a := by
        simp [parOk, byteAt_append (show 7 < a.length by omega), slice_append (show 7 ≤ a.length by omega)]
      rw [hl]; unfold selectLeaf; rw [search_append hs]; simp [e8, ep, hp]
    · simp [hl, isWait] at h
    all_goals
      have h8' : 8 ≤ a.length := by simpa [have8] using h8
      have e8 : have8 (a ++ b) = true := by simp [have8]; omega
      have ep : parOk cfg.wire (a ++ b) = parOk cfg.wire a := by
        simp [parOk, byteAt_append (show 7 < a.length by omega), slice_append (show 7 ≤ a.length by omega)]
      have ed : declLen (a ++ b) = declLen a := by
        simp [declLen, byteAt_append (show 5 < a.length by omega), byteAt_append (show 6 < a.length by omega)]
      have ha' : 8 + declLen a + 2 ≤ a.length := by simpa [haveAll] using ha
      have ea : haveAll (a ++ b) = true := by simp [haveAll, ed]; omega
      have ec : crcOk cfg.tables (a ++ b) = crcOk cfg.tables a := by
        simp [crcOk, ed, slice_append (show 8 + declLen a ≤ a.length by omega),
          byteAt_append (show 8 + declLen a < a.length by omega), byteAt_append (show 8 + declLen a + 1 < a.length by omega)]
      rw [hl]; unfold selectLeaf; rw [search_append hs]; simp [e8, ep, hp, ea, ec, hc, ed]

/-- what an iteration consumes -/
def leafBytes : LoopLeaf → Nat
  | .garbage i => i
  | .xm128 => 133
  | .xm1k => 1029
  | .stdBadpar | .stdBadcrc => 3
  | .stdEmit len => 10 + len
  | .waitNocand | .xmWait | .stdWait8 | .stdWaitlen => 0

theorem leafBytes_le (cfg : Params) (buf : List Byte) : leafBytes (selectLeaf cfg buf) ≤ buf.length := by
  rcases selectLeaf_cases cfg buf with ⟨hl, hs⟩ | ⟨i, k, hl, hs, hi⟩ | ⟨hs, hx⟩ | ⟨hs, hx⟩
  · simp [hl, leafBytes]
  · have := search_lt hs; simp [hl, leafBytes]; omega
  · rcases hx with ⟨hl, _⟩ | ⟨hl, hb, hk⟩ | ⟨hl, hb, hk⟩ <;>
      simp_all [leafBytes, haveBlock]
  · have := search_lt hs
    rcases hx with ⟨hl, _⟩ | ⟨hl, h8, hp⟩ | ⟨hl, h8, hp, ha⟩ | ⟨hl, h8, hp, ha, hc⟩ | ⟨hl, h8, hp, ha, hc⟩ <;>
      simp_all [leafBytes, haveAll] <;> omega

theorem leafBytes_pos (cfg : Params) (buf : List Byte) (h : isWait (selectLeaf cfg buf) = false) : 0 < leafBytes (selectLeaf cfg buf) := by
  rcases selectLeaf_cases cfg buf with ⟨hl, hs⟩ | ⟨i, k, hl, hs, hi⟩ | ⟨hs, hx⟩ | ⟨hs, hx⟩
  · simp [hl, isWait] at h
  · simpa [hl, leafBytes] using hi
  · rcases hx with ⟨hl, _⟩ | ⟨hl, hb, hk⟩ | ⟨hl, hb, hk⟩ <;> simp_all [leafBytes, isWait]
  · rcases hx with ⟨hl, _⟩ | ⟨hl, h8, hp⟩ | ⟨hl, h8, hp, ha⟩ | ⟨hl, h8, hp, ha, hc⟩ | ⟨hl, h8, hp, ha, hc⟩ <;>
      simp_all [leafBytes, isWait]

theorem loopStep_none_iff (s : State) (ch : Chan) : s.loopStep ch = none ↔ isWait (s.leaf ch) = true := by
  unfold State.loopStep; cases s.leaf ch <;> simp [isWait]

theorem loopStep_buf {s t : State} {ch : Chan} (h : s.loopStep ch = some t) :
    (t.frm ch).buf = (s.frm ch).buf.drop (leafBytes (s.leaf ch)) := by
  rcases loopStep_cases h with ⟨i, hl, rfl⟩ | ⟨hl, rfl⟩ | ⟨hl, rfl⟩ | ⟨hl, rfl⟩ | ⟨hl, rfl⟩ | ⟨l, hl, rfl⟩ <;>
    simp [hl, leafBytes, State.garbage_def, State.xmBlock_def, State.badpar_def, State.badcrc_def, State.emit_def]
  omega

theorem loopStep_cfg {s t : State} {ch : Chan} (h : s.loopStep ch = some t) : t.cfg = s.cfg := by
  rcases loopStep_cases h with ⟨i, hl, rfl⟩ | ⟨hl, rfl⟩ | ⟨hl, rfl⟩ | ⟨hl, rfl⟩ | ⟨hl, rfl⟩ | ⟨l, hl, rfl⟩ <;>
    simp [State.garbage_def, State.xmBlock_def, State.badpar_def, State.badcrc_def, State.emit_def]

theorem loopStep_lt {s t : State} {ch : Chan} (h : s.loopStep ch = some t) :
    (t.frm ch).buf.length < (s.frm ch).buf.length := by
  rw [loopStep_buf h, List.length_drop]
  have h1 := leafBytes_le s.cfg (s.frm ch).buf
  have h2 : 0 < leafBytes (s.leaf ch) := by
    refine leafBytes_pos _ _ ?_
    by_contra hw
    have := (loopStep_none_iff s ch).2 (by simpa [State.leaf] using hw)
    rw [this] at h; cases h
  have h3 : leafBytes (s.leaf ch) ≤ (s.frm ch).buf.length := h1
  omega

theorem loopFor_wait (n : Nat) (s : State) (ch : Chan) (h : (s.frm ch).buf.length < n) :
    isWait ((s.loopFor n ch).leaf ch) = true := by
  induction n generalizing s with
  | zero => omega
  | succ n ih =>
    rw [State.loopFor]
    split
    · rename_i hn; exact (loopStep_none_iff _ _).1 hn
    · rename_i t ht
      exact ih t (by have := loopStep_lt ht; omega)

/-- extra fuel is idle -/
theorem loopFor_fuel (n m : Nat) (s : State) (ch : Chan) (hn : (s.frm ch).buf.length < n) (hm : (s.frm ch).buf.length < m) :
    s.loopFor n ch = s.loopFor m ch := by
  induction n generalizing s m with
  | zero => omega
  | succ n ih =>
    cases m with
    | zero => omega
    | succ m =>
      rw [State.loopFor, State.loopFor]
      split
      · rfl
      · rename_i t ht
        have := loopStep_lt ht
        exact ih m t (by omega) (by omega)

theorem loop_unfold (s : State) (ch : Chan) :
    s.loop ch = match s.loopStep ch with | none => s | some t => t.loop ch := by
  rw [State.loop, State.loopFor]
  rcases ht : s.loopStep ch with _ | t
  · rfl
  · have := loopStep_lt ht
    exact loopFor_fuel _ _ _ _ (by omega) (by omega)

theorem frm_eq_raise_append (f : Frm) (ch) (n r) (b : List Byte) (h : n ≤ f.buf.length) :
    (f.append b).raise ch n r = (f.raise ch n r).append b := by
  simp [Frm.append, Frm.raise, Frm.consume, List.take_append_of_le_length h, List.drop_append_of_le_length h]

/-- An iteration that does not wait commutes with an append (R159). -/
theorem loopStep_append {s t : State} {ch : Chan} (b : List Byte) (h : s.loopStep ch = some t) :
    (s.append ch b).loopStep ch = some (t.append ch b) := by
  have hw : isWait (s.leaf ch) = false := by
    by_contra hw
    have := (loopStep_none_iff s ch).2 (by simpa using hw)
    rw [this] at h; cases h
  have hl : (s.append ch b).leaf ch = s.leaf ch := by
    simpa [State.leaf, State.append_def] using selectLeaf_append (b := b) hw
  have hle : leafBytes (s.leaf ch) ≤ (s.frm ch).buf.length := leafBytes_le _ _
  unfold State.loopStep at h ⊢
  rw [hl]
  rcases hleaf : s.leaf ch <;> simp only [hleaf] at h <;> cases h <;> simp only [hleaf, leafBytes] at hle
  · simp [State.garbage_def, State.append_def, frm_eq_raise_append _ _ _ _ _ hle]
  · simp only [State.xmBlock_def, State.append_def, State.setFrm_frm, State.setFrm_setFrm, Option.some.injEq]
    congr 1
    have e1 : byteAt ((s.frm ch).buf ++ b) 1 = byteAt (s.frm ch).buf 1 := byteAt_append (by omega)
    simp [Frm.append, Frm.xmBlock, Frm.consume, e1, List.take_append_of_le_length hle, List.drop_append_of_le_length hle]
  · simp only [State.xmBlock_def, State.append_def, State.setFrm_frm, State.setFrm_setFrm, Option.some.injEq]
    congr 1
    have e1 : byteAt ((s.frm ch).buf ++ b) 1 = byteAt (s.frm ch).buf 1 := byteAt_append (by omega)
    simp [Frm.append, Frm.xmBlock, Frm.consume, e1, List.take_append_of_le_length hle, List.drop_append_of_le_length hle]
  · simp [State.badpar_def, State.append_def, frm_eq_raise_append _ _ _ _ _ hle]
  · simp [State.badcrc_def, State.append_def, frm_eq_raise_append _ _ _ _ _ hle, State.crcDone_setFrm]
  · rename_i len
    simp only [State.emit_def, State.append_def, State.setFrm_frm, State.setFrm_setFrm, Option.some.injEq, State.crcDone_setFrm]
    congr 1
    have e3 : byteAt ((s.frm ch).buf ++ b) 3 = byteAt (s.frm ch).buf 3 := byteAt_append (by omega)
    have e4 : byteAt ((s.frm ch).buf ++ b) 4 = byteAt (s.frm ch).buf 4 := byteAt_append (by omega)
    have e5 : slice ((s.frm ch).buf ++ b) 8 (8+len) = slice (s.frm ch).buf 8 (8+len) := slice_append (by omega)
    have e6 : slice ((s.frm ch).buf ++ b) 0 (8+len+2) = slice (s.frm ch).buf 0 (8+len+2) := slice_append (by omega)
    have e7 : 8 + len + 2 ≤ (s.frm ch).buf.length := by omega
    simp [Frm.append, Frm.push, Frm.consume, frameOf, e3, e4, e5, e6, List.drop_append_of_le_length e7]

/-- Running the loop before an append changes nothing of what the loop after it does (R159). -/
theorem loop_append (s : State) (ch : Chan) (b : List Byte) :
    ((s.loop ch).append ch b).loop ch = (s.append ch b).loop ch := by
  generalize hn : (s.frm ch).buf.length = n
  induction n using Nat.strong_induction_on generalizing s with
  | _ n ih =>
    subst hn
    rw [loop_unfold s]
    rcases ht : s.loopStep ch with _ | t
    · rfl
    · rw [ih _ (loopStep_lt ht) t rfl, loop_unfold (s.append ch b), loopStep_append b ht]

/-- Two additions are one of the joined chunk, if no eviction occurs in either (R159). -/
theorem add_append (s : State) (ch : Chan) (a b : List Byte) (h1 : s.overBound ch = false) (h2 : (s.add ch a).overBound ch = false) :
    (s.add ch a).add ch b = s.add ch (a ++ b) := by
  rw [State.add]
  simp only [h2]
  simp only [State.add, h1, Bool.false_eq_true, if_false]
  rw [loop_append]
  congr 1
  simp [State.append_def, Frm.append]

theorem returning_loopStep (s : State) (r : Ret) (ch : Chan) : (s.returning r).loopStep ch = (s.loopStep ch).map (·.returning r) := by
  unfold State.loopStep
  have : (s.returning r).leaf ch = s.leaf ch := by simp [State.leaf]
  rw [this]
  cases s.leaf ch <;> cases ch <;> rfl

theorem returning_loopFor (n) (s : State) (r : Ret) (ch : Chan) : (s.returning r).loopFor n ch = (s.loopFor n ch).returning r := by
  induction n generalizing s with
  | zero => rfl
  | succ n ih =>
    rw [State.loopFor, State.loopFor, returning_loopStep]
    cases s.loopStep ch with
    | none => rfl
    | some t => exact ih t

/-- The loop neither reads nor writes the returned value. -/
theorem returning_loop (s : State) (r : Ret) (ch : Chan) : (s.returning r).loop ch = (s.loop ch).returning r := by
  rw [State.loop, State.loop, returning_loopFor, State.returning_frm]

/-- At a wait the loop does nothing (R143). -/
theorem loop_of_isWait {s : State} {ch : Chan} (h : isWait (s.leaf ch) = true) : s.loop ch = s := by
  rw [loop_unfold, (loopStep_none_iff s ch).2 h]

theorem returning_add (s : State) (r : Ret) (ch : Chan) (a : List Byte) :
    (s.returning r).add ch a = (s.add ch a).returning r := by
  have ha : ∀ u : State, (u.returning r).append ch a = (u.append ch a).returning r := by intro u; cases ch <;> rfl
  have he : (s.returning r).evict ch = (s.evict ch).returning r := by cases ch <;> rfl
  have hb : (s.returning r).overBound ch = s.overBound ch := by simp [State.overBound]
  unfold State.add
  rw [hb]
  cases s.overBound ch
  · exact (congrArg (State.loop · ch) (ha s)).trans (returning_loop _ r ch)
  · exact (congrArg (fun u => (State.append u ch a).loop ch) he).trans
      ((congrArg (State.loop · ch) (ha _)).trans (returning_loop _ r ch))

/-- Additions in a row on one instance. -/
def State.adds (s : State) (ch : Chan) (chunks : List (List Byte)) : State := chunks.foldl (fun u c => u.add ch c) s

theorem returning_adds (s : State) (r : Ret) (ch : Chan) (chunks : List (List Byte)) :
    (s.returning r).adds ch chunks = (s.adds ch chunks).returning r := by
  induction chunks generalizing s with
  | nil => rfl
  | cons c cs ih =>
    show ((s.returning r).add ch c).adds ch cs = ((s.add ch c).adds ch cs).returning r
    rw [returning_add, ih]

theorem execAll_adds (ch : Chan) (chunks : List (List Byte)) (s : State) (h : chunks ≠ []) :
    execAll (chunks.map (Instr.frmAdd ch)) s = .next ((s.adds ch chunks).returning .nothing) := by
  induction chunks generalizing s with
  | nil => exact absurd rfl h
  | cons c cs ih =>
    show execAll (cs.map (Instr.frmAdd ch)) ((s.add ch c).returning .nothing) = _
    by_cases hcs : cs = []
    · subst hcs; rfl
    · rw [ih _ hcs, returning_adds]; rfl

end Sys2Proof.Machine
end

