-- ==== Sys2Proof/Tests/Slice0.lean ====
section
/-! SUPPORT. Small tests: the WellFormed smoke test, the decoding of every constructor from a record written out, the words of
the spec's encodings, and the spec's own examples of single operations (the example paragraph of each rule; F1 and the other
frames are those of 41_framer.md and 95_test_vectors.md).
Then a witness for the hypotheses of every obligation that has some. -/

namespace Sys2Proof.Tests

-- One theorem at a time: each kernel evaluation waits for the declarations before it, and as many waiting threads as there
-- are theorems here do not fit in memory.
set_option Elab.async false

open Sys2Proof Sys2Proof.Machine

/-! ### Helpers -/

/-- The operation a record decodes to, none where it is refused. -/
def dec (r : List Byte) : Option Instr :=
  match decode defaultWire r with
  | .ok i => some i
  | .error _ => none

/-- The decoder's reason for refusing a record. -/
def decErr (r : List Byte) : Option DecodeError :=
  match decode defaultWire r with
  | .ok _ => none
  | .error e => some e

/-- A view of the state an operation leads to. -/
def after {α : Type} (i : Instr) (s : State) (view : State → α) : Option α :=
  match exec i s with
  | .next t => some (view t)
  | .fault _ => none
  | .refused _ => none

/-- The reset state with these bytes in channel 0's buffer. -/
def withBuf (b : List Byte) : State := { State.reset with frm0 := { Frm.reset with buf := b, rx := b } }

/-- The reset state with EXT's record as given. -/
def withExt (o : ExtOut) : State := { State.reset with ext := o }

/-- An output record of class c whose generic value and shown value are g. -/
def shown (c : LayoutClass) (g : Generic) : ExtOut :=
  { ExtOut.empty with subIdValid := true, subId := 0x0102, cls := c, generic := some g, value := .gen g }

/-- The example frame F1 of 41_framer.md: sequence 2, type 4, payload 11 22. -/
def f1 : List Byte := [0x55, 0x00, 0x01, 0x02, 0x04, 0x00, 0x02, 0xA1, 0x11, 0x22, 0x5C, 0xCD]

/-- The Frame record of F1. -/
def f1Frame : Frame := { sequence := 2, type := 4, payload := [0x11, 0x22], raw := f1 }

/-! ### WellFormed smoke test: one ill-formed term for each check, refused by the check -/

/-- The length check refuses 65536 payload bytes. -/
theorem test_payloadFits : payloadFits 65535 = true ∧ payloadFits 65536 = false := by decide

theorem test_wf_decode_payload_too_long :
    wellFormed defaultWire (.extDecode .ch0 { f1Frame with payload := List.replicate 65536 0 }) = false := by
  show payloadFits (List.replicate 65536 (0 : Byte)).length = false
  rw [List.length_replicate]; decide

theorem test_wf_subid_tag_ack_too_long :
    wellFormed defaultWire (.extSubid (List.replicate 65536 0)) = false ∧ wellFormed defaultWire (.extTag (List.replicate 65536 0)) = false ∧
    wellFormed defaultWire (.extAck 3 (List.replicate 65536 0)) = false := by
  have h : payloadFits (List.replicate 65536 (0 : Byte)).length = false := by rw [List.length_replicate]; decide
  exact ⟨h, h, h⟩

theorem test_wf_values_too_long :
    wellFormed defaultWire (.extUint8 0 (List.replicate 65533 0)) = false ∧ wellFormed defaultWire (.extUint16 0 (List.replicate 65533 0)) = false ∧
    wellFormed defaultWire (.extUint32 0 (List.replicate 65533 0)) = false ∧ wellFormed defaultWire (.extVoid 0 (List.replicate 65533 0)) = false ∧
    wellFormed defaultWire (.extBool 0 (List.replicate 65533 0)) = false ∧ wellFormed defaultWire (.extBlob1 0 (List.replicate 65533 0)) = false ∧
    wellFormed defaultWire (.extBlob2 0 (List.replicate 65533 0)) = false := by
  have h : payloadFits (3 + (List.replicate 65533 (0 : Byte)).length) = false := by rw [List.length_replicate]; decide
  exact ⟨h, h, h, h, h, h, h⟩

theorem test_wf_raw_too_long : wellFormed defaultWire (.extRaw 0 9 (List.replicate 65533 0)) = false := by
  have h : payloadFits (3 + (List.replicate 65533 (0 : Byte)).length) = false := by rw [List.length_replicate]; decide
  have e : ∀ v : List Byte, wellFormed defaultWire (.extRaw 0 9 v) = (payloadFits (3 + v.length) && selectsRaw defaultWire 9 v) :=
    fun _ => rfl
  rw [e, h, Bool.false_and]

/-- A UINT16 with two value bytes is decoded, so it is no EXT.RAW (R192); with one it is. -/
theorem test_wf_raw_not_selected :
    wellFormed defaultWire (.extRaw 0x0102 0x01 [0x00, 0x64]) = false ∧ wellFormed defaultWire (.extRaw 0x0102 0x01 [0x64]) = true := by
  decide +kernel

/-- Three bytes are no EXT.TRUNC (R193). -/
theorem test_wf_trunc_too_long :
    wellFormed defaultWire (.extTrunc [1, 2, 3]) = false ∧ wellFormed defaultWire (.extTrunc [1, 2]) = true := by
  decide +kernel

/-- A record of an ill-formed operation is refused as such. -/
theorem test_decode_refuses_ill_formed :
    decErr [32, 0x01, 0x02, 0x01, 0x00, 0x64] = some .illFormed ∧ decErr [33, 1, 2, 3] = some .illFormed := by
  decide +kernel

/-- Every other reason to refuse a record. -/
theorem test_decode_refuses_by_name :
    decErr [] = some .emptyRecord ∧ decErr [46] = some (.unknownOpcode 46) ∧ decErr [4, 2, 0x55] = some (.badChannel 2) ∧
    decErr [1] = some .badOperands ∧ decErr [25, 0x01, 0x02, 0x01, 0x00] = some (.badTag 0x01) := by
  decide +kernel

/-! ### Decoding: a record written out for every constructor -/

theorem test_decode_crc :
    dec [0] = some .crcInit ∧ dec [1, 0x55] = some (.crcStep 0x55) ∧ dec [2] = some .crcOut ∧
    dec [3, 0x31, 0x32] = some (.crc16 [0x31, 0x32]) := by
  decide +kernel

theorem test_decode_frm :
    dec [4, 1, 0xAA, 0xBB] = some (.frmAdd .ch1 [0xAA, 0xBB]) ∧ dec [5, 0] = some (.frmEvict .ch0) ∧
    dec [6, 0, 0x55] = some (.frmAppend .ch0 [0x55]) ∧ dec [7, 1] = some (.frmLoop .ch1) ∧
    dec [8, 0] = some (.frmSearch .ch0) ∧ dec [9, 0] = some (.frmWaitNocand .ch0) ∧
    dec [10, 0] = some (.frmGarbage .ch0) ∧ dec [11, 0] = some (.frmXmWait .ch0) ∧
    dec [12, 0] = some (.frmXm128 .ch0) ∧ dec [13, 0] = some (.frmXm1k .ch0) ∧
    dec [14, 0] = some (.frmStdWait8 .ch0) ∧ dec [15, 0] = some (.frmStdBadpar .ch0) ∧
    dec [16, 0] = some (.frmStdWaitlen .ch0) ∧ dec [17, 0] = some (.frmStdBadcrc .ch0) ∧
    dec [18, 0] = some (.frmStdEmit .ch0) ∧ dec [19, 1] = some (.frmTake .ch1) := by
  decide +kernel

theorem test_decode_ext :
    dec [20, 1, 7, 5, 0x00, 0x02, 0x01, 0x02, 0x99] =
      some (.extDecode .ch1 { sequence := 7, type := 5, payload := [0x01, 0x02], raw := [0x99] }) ∧
    dec [21, 0x01, 0x02] = some (.extSubid [0x01, 0x02]) ∧ dec [22] = some .extExclude ∧
    dec [23, 1, 0x00, 0x02] = some (.extValreq 1 2) ∧ dec [24, 0x01] = some (.extTag [0x01]) ∧
    dec [25, 0x01, 0x02, 0x00, 0x2A] = some (.extUint8 0x0102 [0x2A]) ∧
    dec [26, 0x01, 0x02, 0x01, 0x00, 0x64] = some (.extUint16 0x0102 [0x00, 0x64]) ∧
    dec [27, 0x01, 0x02, 0x02, 0x00, 0x01, 0x00, 0x00] = some (.extUint32 0x0102 [0x00, 0x01, 0x00, 0x00]) ∧
    dec [28, 0x01, 0x02, 0x03] = some (.extVoid 0x0102 []) ∧
    dec [29, 0x01, 0x04, 0x04, 0x01] = some (.extBool 0x0104 [0x01]) ∧
    dec [30, 0x01, 0x43, 0x05, 0x00, 0x01, 0x61] = some (.extBlob1 0x0143 [0x00, 0x01, 0x61]) ∧
    dec [31, 0x01, 0x02, 0x06, 0x00, 0x02, 0xDE, 0xAD] = some (.extBlob2 0x0102 [0x00, 0x02, 0xDE, 0xAD]) ∧
    dec [32, 0x01, 0x02, 0x09, 0xAA] = some (.extRaw 0x0102 0x09 [0xAA]) ∧
    dec [33, 0x01, 0x02] = some (.extTrunc [0x01, 0x02]) ∧ dec [34, 1] = some (.extDir .ch1) ∧
    dec [35, 4] = some (.extType 4) ∧
    dec [36, 3, 0x01, 0x02, 0x00, 0x05] = some (.extAck 3 [0x01, 0x02, 0x00, 0x05]) := by
  decide +kernel

theorem test_decode_structured_and_reset :
    dec [37, 5] = some (.extTrack 5) ∧ dec [38] = some .extZoneMotion ∧ dec [39] = some .extZonePresence ∧
    dec [40] = some .extBitmap ∧ dec [41] = some .extBitmapZone ∧ dec [42] = some .extZoneEnum ∧
    dec [43] = some .extLrrev ∧ dec [44] = some .extMount ∧ dec [45] = some .reset := by
  decide +kernel

/-- Under other tag numbers the payload rows follow the machine's own parameters (R10, R88): UINT8 at 0x10, so 0x00 is
unrecognized and its payload EXT.RAW. -/
theorem test_decode_other_tags :
    let w : WireParams := { defaultWire with tagUint8 := 0x10 }
    (match decode w [25, 0x01, 0x02, 0x10, 0x2A] with | .ok i => some i | .error _ => none) =
      some (.extUint8 0x0102 [0x2A]) ∧
    (match decode w [32, 0x01, 0x02, 0x00, 0x2A] with | .ok i => some i | .error _ => none) =
      some (.extRaw 0x0102 0x00 [0x2A]) ∧
    wellFormed w (.extRaw 0x0102 0x10 [0x2A]) = false ∧
    encode w (.extUint8 0x0102 [0x2A]) = [25, 0x01, 0x02, 0x10, 0x2A] := by
  decide +kernel

/-- A step reads a record under the parameters in State. -/
theorem test_step_other_tags :
    (match step { State.reset with
        cfg := { defaultParams with wire := { defaultWire with tagUint8 := 0x10 } }
        host := [[25, 0x01, 0x02, 0x10, 0x2A]] } with
      | .next t => some t.ext.value
      | .fault _ => none
      | .refused _ => none) = some (.gen (.u8 0x2A)) := by
  decide +kernel

/-! ### The spec's own patterns, selected by `buf` and by the payload (R80, R83, R85, R87, R181, R194 to R196) -/

theorem test_words_framer :
    decodeTableWord 24 0x550001 = some (.frmStdWait8 .ch0) ∧
    decodeTableWord 64 0x55000102040002A0 = some (.frmStdBadpar .ch0) ∧
    decodeTableWord 64 0x55000102040002A1 = some (.frmStdWaitlen .ch0) ∧
    decodeTableWord 24 0x0105FA = some (.frmXm128 .ch0) ∧ decodeTableWord 24 0x0200FF = some (.frmXm1k .ch0) := by
  decide +kernel

theorem test_words_extractor :
    decodeTableWord 16 0x0102 = some (.extSubid [0x01, 0x02]) ∧ decodeTableWord 8 0x04 = some (.extType 4) ∧
    decodeTableWord 32 0x01020005 = some (.extAck 3 [0x01, 0x02, 0x00, 0x05]) ∧
    decodeTableWord 24 0x010201 = some (.extUint16 0x0102 [0, 0, 0, 0]) ∧
    decodeTableWord 24 0x010209 = some (.extRaw 0x0102 0x09 [0, 0, 0, 0]) := by
  decide +kernel

/-- The leaves selected by a whole buffer: F1 is emitted, F1 with payload byte 23 has a bad CRC. -/
theorem test_leaf_of_whole_frames :
    selectLeaf defaultParams f1 = .stdEmit 2 ∧
    selectLeaf defaultParams [0x55, 0x00, 0x01, 0x02, 0x04, 0x00, 0x02, 0xA1, 0x11, 0x23, 0x5C, 0xCD] = .stdBadcrc ∧
    selectLeaf defaultParams (0xAA :: f1) = .garbage 1 ∧ selectLeaf defaultParams [0xAA, 0x55, 0x00] = .waitNocand ∧
    selectLeaf defaultParams [0x02, 0x00, 0xFF, 0x09, 0x09] = .xmWait := by
  decide +kernel

/-- The table word runs as the first operation after reset. -/
theorem test_fetch_runs_word :
    (match step (State.reset.withFetchWord 24 0x0105FA) with
      | .next t => (t.frm0.buf, t.frm0.xmLast, t.host)
      | .fault _ => ([1], none, [])
      | .refused _ => ([2], none, [])) = ([], some 5, []) := by
  decide +kernel

/-- A replay line is one FRM.ADD; a non-hex token skips it; channel 2 does not exist (R97, U6). -/
theorem test_replay_lines :
    replayLine "t12.5 0 55 00 01".toList = .txn (.frmAdd .ch0 [0x55, 0x00, 0x01]) ∧
    replayLine "1 ab CD".toList = .txn (.frmAdd .ch1 [0xAB, 0xCD]) ∧ replayLine "x 55".toList = .skipped ∧
    replayLine "0 5G".toList = .skipped ∧ replayLine "2 55".toList = .noSuchChannel 2 ∧
    replayLine "0".toList = .txn (.frmAdd .ch0 []) := by
  decide +kernel

/-- The model's own choices in the notation (log 28): a signed channel is no number, a form feed no whitespace, a time stamp
alone is skipped, and so is a line with both a channel 2 and a non-hex byte. -/
theorem test_replay_choices :
    replayLine "-1 55".toList = .skipped ∧ replayLine "+0 55".toList = .skipped ∧
    replayLine "t12.5".toList = .skipped ∧ replayLine "2 5G".toList = .skipped ∧
    replayLine "01 55".toList = .txn (.frmAdd .ch1 [0x55]) ∧
    replayLine ['0', ' ', '5', '5', Char.ofNat 12, '0', '0'] = .skipped := by
  decide +kernel

/-! ### CRC (examples of R120 to R123, default tables) -/

theorem test_crcInit : after .crcInit State.reset State.crcPair = some (0xFF, 0xFF) := by decide +kernel

theorem test_crcStep :
    after (.crcStep 0x55) (State.reset.setCrc (0xFF, 0xFF)) State.crcPair = some (0x7F, 0x7F) := by
  decide +kernel

theorem test_crcOut :
    after .crcOut (State.reset.setCrc (0x12, 0x34)) (fun t => (t.ret, t.crcPair)) = some (.crc 0x12 0x34, (0x12, 0x34)) := by
  decide +kernel

theorem test_crc16_check_value :
    after (.crc16 [0x31, 0x32, 0x33, 0x34, 0x35, 0x36, 0x37, 0x38, 0x39]) State.reset State.ret =
      some (.crc 0x37 0x4B) := by
  decide +kernel

theorem test_crc16_frame :
    after (.crc16 [0x55, 0x00, 0x01, 0x02, 0x04, 0x00, 0x02, 0xA1, 0x11, 0x22]) State.reset State.ret =
      some (.crc 0x5C 0xCD) := by
  decide +kernel

/-! ### FRM (examples of R140 to R155, default tables) -/

theorem test_frmAdd_f1 :
    after (.frmAdd .ch0 f1) State.reset (fun t => (t.frm0.buf, t.frm0.ready, t.frm0.ev)) = some ([], [f1Frame], []) := by
  decide +kernel

theorem test_frmAdd_garbage :
    after (.frmAdd .ch1 ([0xAA, 0xBB, 0xCC] ++ f1)) State.reset (fun t => (t.frm1.ready, t.frm1.ev)) =
      some ([f1Frame], [.diag .ch1 [0xAA, 0xBB, 0xCC] .garbageBeforeHeader]) := by
  decide +kernel

/-- One byte over the bound evicts 126977 bytes, the bound itself none (example of R141, D9). -/
theorem test_frmEvict_bound (b : List Byte) :
    (b.length = 131073 →
      (withBuf b).overBound .ch0 = true ∧ (((withBuf b).evict .ch0).frm .ch0).buf.length = 4096) ∧
    (b.length = 131072 → (withBuf b).overBound .ch0 = false) := by
  have hb : ((withBuf b).frm .ch0).buf = b := rfl
  refine ⟨fun h => ⟨?_, ?_⟩, fun h => ?_⟩
  · rw [State.overBound, hb, h]; decide
  · rw [State.evict_def, State.setFrm_frm, Frm.evict_buf, hb, config_tailKeep, List.length_drop, h]
  · rw [State.overBound, hb, h]; decide

theorem test_frmAppend :
    after (.frmAppend .ch0 [0x55, 0x00]) (withBuf [0xAA]) (fun t => t.frm0.buf) = some [0xAA, 0x55, 0x00] := by
  decide +kernel

theorem test_frmLoop :
    after (.frmLoop .ch0) (withBuf (f1 ++ [0x55])) (fun t => (t.frm0.buf, t.frm0.ready)) = some ([0x55], [f1Frame]) := by
  decide +kernel

theorem test_frmSearch :
    after (.frmSearch .ch0) (withBuf [0xAA, 0x01, 0x10, 0xEF, 0x55, 0x00, 0x01]) State.ret =
      some (.cand (some (1, .xm))) := by
  decide +kernel

theorem test_frmWaitNocand :
    after (.frmWaitNocand .ch0) (withBuf [0xAA, 0x55, 0x00, 0x02]) (fun t => (t.frm0.buf, t.frm0.ev)) =
      some ([0xAA, 0x55, 0x00, 0x02], []) := by
  decide +kernel

theorem test_frmGarbage :
    after (.frmGarbage .ch0) (withBuf [0xAA, 0xBB, 0x55, 0x00, 0x01]) (fun t => (t.frm0.buf, t.frm0.ev)) =
      some ([0x55, 0x00, 0x01], [.diag .ch0 [0xAA, 0xBB] .garbageBeforeHeader]) := by
  decide +kernel

theorem test_frmXmWait :
    after (.frmXmWait .ch0) (withBuf [0x02, 0x00, 0xFF, 0x09, 0x09]) (fun t => t.frm0.xmLast) = some none := by
  decide +kernel

theorem test_frmXm128 :
    after (.frmXm128 .ch0) (withBuf ([0x01, 0x05, 0xFA] ++ List.replicate 128 0x1A ++ [0x12, 0x34]))
      (fun t => (t.frm0.buf, t.frm0.ev, t.frm0.xmLast)) = some ([], [.xm .ch0 5 .n128], some 5) := by
  decide +kernel

theorem test_frmXm1k :
    after (.frmXm1k .ch0) (withBuf ([0x02, 0x00, 0xFF] ++ List.replicate 1026 0))
      (fun t => (t.frm0.buf, t.frm0.ev, t.frm0.xmLast)) = some ([], [.xm .ch0 0 .n1024], some 0) := by
  decide +kernel

/-- Sequence 6 after 5 is neither gap nor duplicate, 5 again a duplicate, 7 a gap (R147). -/
theorem test_xm_flags :
    (xmGapFlag (some 5) 6, xmDupFlag (some 5) 6) = (false, false) ∧
    (xmGapFlag (some 5) 5, xmDupFlag (some 5) 5) = (false, true) ∧
    (xmGapFlag (some 5) 7, xmDupFlag (some 5) 7) = (true, false) ∧ xmGapFlag (some 0xFF) 0 = false ∧
    xmGapFlag none 9 = false := by
  decide +kernel

theorem test_frmStdWait8 :
    after (.frmStdWait8 .ch0) (withBuf [0x55, 0x00, 0x01, 0x02, 0x04]) (fun t => t.frm0.buf.length) = some 5 := by
  decide +kernel

theorem test_frmStdBadpar :
    after (.frmStdBadpar .ch0) (withBuf [0x55, 0x00, 0x01, 0x02, 0x04, 0x00, 0x02, 0xA0])
      (fun t => (t.frm0.buf, t.frm0.ev)) =
      some ([0x02, 0x04, 0x00, 0x02, 0xA0], [.diag .ch0 [0x55, 0x00, 0x01] .badHeaderParity]) := by
  decide +kernel

theorem test_frmStdWaitlen :
    after (.frmStdWaitlen .ch0) (withBuf [0x55, 0x00, 0x01, 0x00, 0x00, 0x01, 0x00, 0xA8]) (fun t => t.frm0.ready) =
      some [] := by
  decide +kernel

theorem test_frmStdBadcrc :
    after (.frmStdBadcrc .ch0) (withBuf [0x55, 0x00, 0x01, 0x02, 0x04, 0x00, 0x02, 0xA1, 0x11, 0x23, 0x5C, 0xCD])
      (fun t => (t.frm0.buf, t.frm0.ev)) =
      some ([0x02, 0x04, 0x00, 0x02, 0xA1, 0x11, 0x23, 0x5C, 0xCD], [.diag .ch0 [0x55, 0x00, 0x01] .badCrc]) := by
  decide +kernel

theorem test_frmStdEmit_empty_payload :
    after (.frmStdEmit .ch0) (withBuf [0x55, 0x00, 0x01, 0x00, 0x03, 0x00, 0x00, 0xA6, 0x04, 0xE7])
      (fun t => (t.frm0.buf, t.frm0.ready.map (fun f => (f.sequence, f.type, f.payload)))) = some ([], [(0, 3, [])]) := by
  decide +kernel

theorem test_frmTake :
    after (.frmTake .ch0) { State.reset with frm0 := { Frm.reset with ready := [f1Frame] } }
      (fun t => (t.ret, t.frm0.ready)) = some (.frames [f1Frame], []) := by
  decide +kernel

/-! ### EXT (examples of R180 to R196) -/

theorem test_extDecode_uint16 :
    after (.extDecode .ch1 { sequence := 7, type := 5, payload := [0x01, 0x02, 0x01, 0x00, 0x64], raw := [] }) State.reset
      (fun t => (t.ext.subId, t.ext.value)) = some (0x0102, .gen (.u16 100)) ∧
    after (.extDecode .ch1 { sequence := 7, type := 5, payload := [0x01, 0x02, 0x01, 0x00, 0x64], raw := [] }) State.reset
      (fun t => (t.ext.dir, t.ext.tkind, t.ext.sequence)) = some (some .s2h, some .report, some 7) := by
  decide +kernel

theorem test_extDecode_ack :
    after (.extDecode .ch0 { sequence := 0, type := 3, payload := [0x01, 0x02, 0x00, 0x00], raw := [] }) State.reset
      (fun t => (t.ext.generic, t.ext.value)) = some (some (.u8 0), .ackst true 0) := by
  decide +kernel

theorem test_extSubid :
    after (.extSubid [0x01]) (withExt (shown .track (.u8 1))) (fun t => (t.ext.subIdValid, t.ext.subId, t.ext.cls)) =
      some (false, 0, .none) := by
  decide +kernel

theorem test_extExclude :
    after .extExclude { withExt (shown .none .void) with cfg := { defaultParams with exclude := [0x0102] } }
      (fun t => (t.ext.suppressed, t.ret)) = some (true, .excluded true) := by
  decide +kernel

theorem test_extValreq :
    after (.extValreq 1 2) State.reset (fun t => t.ext.value) = some .valreq ∧
    after (.extValreq 4 2) State.reset (fun t => t.ext.value) = some .none := by
  decide +kernel

theorem test_extTag :
    after (.extTag [0x01, 0x02, 0x09, 0xAA]) State.reset (fun t => t.ext.value) = some (.raw [0x09, 0xAA]) := by
  decide +kernel

theorem test_extScalars :
    after (.extUint8 0x0102 [0x2A]) State.reset (fun t => t.ext.value) = some (.gen (.u8 42)) ∧
    after (.extUint16 0x0102 [0x00, 0x64]) State.reset (fun t => t.ext.value) = some (.gen (.u16 0x0064)) ∧
    after (.extUint32 0x0102 [0x00, 0x01, 0x00, 0x00]) State.reset (fun t => t.ext.value) = some (.gen (.u32 65536)) ∧
    after (.extVoid 0x0102 []) State.reset (fun t => t.ext.value) = some (.gen .void) ∧
    after (.extBool 0x0104 [0x00]) State.reset (fun t => t.ext.value) = some (.gen (.bool false)) := by
  decide +kernel

theorem test_extScalars_too_short :
    after (.extUint16 0x0102 [0x64]) State.reset (fun t => t.ext.value) = some (.raw [0x01, 0x64]) ∧
    after (.extUint32 0x0102 [1, 2, 3]) State.reset (fun t => t.ext.value) = some (.raw [0x02, 1, 2, 3]) := by
  decide +kernel

theorem test_extBlobs :
    after (.extBlob1 0x0143 [0x00, 0x03, 0x61, 0x62, 0x63]) State.reset (fun t => t.ext.value) =
      some (.gen (.blob1 [0x61, 0x62, 0x63] true)) ∧
    after (.extBlob1 0x0143 [0x00, 0x01, 0x80]) State.reset (fun t => t.ext.value) = some (.gen (.blob1 [0x80] false)) ∧
    after (.extBlob2 0x0102 [0x00, 0x02, 0xDE, 0xAD]) State.reset (fun t => t.ext.value) =
      some (.gen (.blob2 [0xDE, 0xAD])) := by
  decide +kernel

theorem test_extRaw_and_trunc :
    after (.extRaw 0x0102 0x09 []) State.reset (fun t => t.ext.value) = some (.raw [0x09]) ∧
    after (.extTrunc [0x01, 0x02]) State.reset (fun t => t.ext.value) = some .trunc ∧
    after (.extTrunc [0x01, 0x02]) (withExt { ExtOut.empty with value := .valreq }) (fun t => t.ext.value) =
      some .valreq := by
  decide +kernel

theorem test_extDir_and_type :
    after (.extDir .ch1) State.reset (fun t => t.ext.dir) = some (some .s2h) ∧
    after (.extType 4) State.reset (fun t => t.ext.tkind) = some (some .readreq) ∧
    after (.extType 6) State.reset (fun t => t.ext.tkind) = some (some .typeUnknown) := by
  decide +kernel

theorem test_extAck :
    after (.extAck 3 [0x01, 0x02, 0x00, 0x05]) State.reset (fun t => t.ext.value) = some (.ackst false 5) ∧
    after (.extAck 2 [0x01, 0x02, 0x00, 0x05]) State.reset (fun t => t.ext.value) = some .none := by
  decide +kernel

/-! ### Structured layouts (examples of R221 to R228) -/

theorem test_extTrack :
    after (.extTrack 5) (withExt (shown .track (.blob2
      [0x01, 0x01, 0x00, 0x64, 0xFF, 0x9C, 0x00, 0x00, 0x00, 0x0A, 0x01, 0xF4, 0x02, 0x03, 0x01]))) (fun t => t.ext.detail) =
      some [.track 1 [{ id := 1, x := 100, y := -100, z := 0, velocity := 10, snr := 500,
                        classifier := 2, posture := 3, active := 1 }]] := by
  decide +kernel

theorem test_extZones :
    after .extZoneMotion (withExt (shown .zoneMotion (.u16 0x0301))) (fun t => t.ext.value) = some (.zonest 3 1) ∧
    after .extZonePresence (withExt (shown .zonePresence (.u16 0x0201))) (fun t => t.ext.value) =
      some (.zoneocc 2 1 true) ∧
    after .extZonePresence (withExt (shown .zonePresence (.u16 0x0200))) (fun t => t.ext.value) =
      some (.zoneocc 2 0 false) ∧
    after .extZoneEnum (withExt (shown .zoneSens (.u16 0x0102))) (fun t => t.ext.value) = some (.zoneenum 1 2) := by
  decide +kernel

theorem test_extBitmap :
    after .extBitmap (withExt (shown .bitmap (.blob2 ([0x80, 0x01] ++ List.replicate 38 0)))) (fun t => t.ext.detail) =
      some [.bitmap none (0x8001 :: List.replicate 19 0)] := by
  decide +kernel

theorem test_extBitmapZone :
    after .extBitmapZone (withExt (shown .bitmapZone (.blob2 (0x05 :: List.replicate 40 0xFF)))) (fun t => t.ext.detail) =
      some [.bitmap (some 5) (List.replicate 20 0xFFFF)] := by
  decide +kernel

/-- Bit 15 is the leftmost column (R92). -/
theorem test_bitmap_cells :
    cellAt [0x8001] 0 0 = true ∧ cellAt [0x8001] 0 1 = false ∧ cellAt [0x8001] 0 15 = true := by
  decide +kernel

theorem test_extEnums :
    after .extLrrev (withExt (shown .lrrev (.u8 1))) (fun t => (t.ext.value, valueLabel t.cfg t.ext)) =
      some (.enum 1, some "Opposite") ∧
    after .extMount (withExt (shown .mount (.u8 1))) (fun t => (t.ext.value, valueLabel t.cfg t.ext)) =
      some (.enum 1, some "Wall") := by
  decide +kernel

/-! ### RESET (R280) -/

theorem test_reset :
    after .reset (withBuf [0x55, 0x00]) (fun t => (t.frm0, t.frm1)) = some (Frm.reset, Frm.reset) := by
  decide +kernel

/-! ## Witnesses: for every obligation with hypotheses, a concrete state and operands that meet them all, clause by clause -/

theorem witness_DecodeReadsEncoded : wellFormed defaultWire (.extRaw 0x0102 0x01 [0x64]) = true := by decide +kernel

theorem witness_DecodedRecordIsEncoded : decode defaultWire [32, 0x01, 0x02, 0x01, 0x64] = .ok (.extRaw 0x0102 0x01 [0x64]) := by rfl

/-- The reset state with one pending record, F1 for channel 0. -/
def pendingF1 : State := { State.reset with host := [4 :: 0 :: f1] }

theorem witness_StepRunsDecodedRecord :
    pendingF1.host = [4 :: 0 :: f1] ∧ decode State.reset.cfg.wire (4 :: 0 :: f1) = .ok (.frmAdd .ch0 f1) := ⟨rfl, rfl⟩

/-- The rows at the ends of both ranges, and the channel bytes at the ends of theirs. -/
theorem witness_StepIdlesOrRefusesRecord :
    State.reset.host = [] ∧ decode State.reset.cfg.wire [46] = .error (.unknownOpcode 46) ∧
    (4 ≤ (4 : Byte).toNat ∧ (4 : Byte).toNat ≤ 20) ∧ (4 ≤ (20 : Byte).toNat ∧ (20 : Byte).toNat ≤ 20) ∧
    (34 : Byte).toNat = 34 ∧ 1 < (2 : Byte).toNat ∧ 1 < (255 : Byte).toNat ∧
    ({ State.reset with host := [[34, 2]] } : State).host = (34 :: 2 :: []) :: [] :=
  ⟨rfl, rfl, by decide, by decide, by decide, by decide, by decide, rfl⟩

/-- Two tables that hold their own index, and the reset state with them. -/
def withIndexTables : State :=
  let v : Vector Byte 256 := Vector.ofFn fun i => BitVec.ofNat 8 i
  { State.reset with cfg := { defaultParams with tables := { a := v, b := v } } }

theorem index_tables (i : Byte) :
    tabAt withIndexTables.cfg.tables.a i = i ∧ tabAt withIndexTables.cfg.tables.b i = i := by
  have h : tabAt (Vector.ofFn fun i : Fin 256 => BitVec.ofNat 8 i) i = i := by simp [tabAt]
  exact ⟨h, h⟩

theorem witness_CrcStepIsSixteenBitUpdate : ∀ i : Byte,
    tabAt withIndexTables.cfg.tables.a i = (i ++ i : Half).extractLsb' 0 8 ∧
    tabAt withIndexTables.cfg.tables.b i = (i ++ i : Half).extractLsb' 8 8 := by
  intro i
  rw [(index_tables i).1, (index_tables i).2]
  revert i
  decide +kernel

theorem witness_LastByteChangesCrc :
    (∀ i j : Byte, tabAt withIndexTables.cfg.tables.a i = tabAt withIndexTables.cfg.tables.a j →
      tabAt withIndexTables.cfg.tables.b i = tabAt withIndexTables.cfg.tables.b j → i = j) ∧ (0x00 : Byte) ≠ 0xFF :=
  ⟨fun i j h _ => ((index_tables i).1.symm.trans h).trans (index_tables j).1, by decide⟩

theorem witness_CrcPairWrittenOnlyByCrcSteps :
    keepsCrc (.frmTake .ch0) = true ∧ exec (.frmTake .ch0) State.reset = .next (State.reset.returning (.frames [])) :=
  ⟨rfl, rfl⟩

theorem witness_EvictKeepsTail : 131072 < ((withBuf (List.replicate 131073 0xAA)).frm .ch0).buf.length := by
  rw [show ((withBuf (List.replicate 131073 0xAA)).frm .ch0).buf = List.replicate 131073 0xAA from rfl,
    List.length_replicate]
  decide

/-- A state that waits, and one that does not, whose operation completes. -/
theorem witness_LoopEndsAtWait :
    isWait (State.reset.leaf .ch0) = true ∧ isWait ((withBuf (0xAA :: f1)).leaf .ch0) = false ∧
    exec (leafInstr .ch0 ((withBuf (0xAA :: f1)).leaf .ch0)) (withBuf (0xAA :: f1)) =
      .next (((withBuf (0xAA :: f1)).garbage .ch0 1).returning .nothing) := by
  have h : (withBuf (0xAA :: f1)).leaf .ch0 = .garbage 1 := by decide +kernel
  refine ⟨by decide +kernel, by rw [h]; rfl, ?_⟩
  simp only [h, leafInstr, exec, execFrmGarbage]

/-- Every non-waiting leaf occurs, so every clause of the count of consumed bytes does. -/
theorem witness_IterationConsumesBytes :
    (withBuf [0xAA, 0x55, 0x00, 0x01]).leaf .ch0 = .garbage 1 ∧
    (withBuf ([0x01, 0x05, 0xFA] ++ List.replicate 130 0)).leaf .ch0 = .xm128 ∧
    (withBuf ([0x02, 0x00, 0xFF] ++ List.replicate 1026 0)).leaf .ch0 = .xm1k ∧
    (withBuf [0x55, 0x00, 0x01, 0x02, 0x04, 0x00, 0x02, 0xA0]).leaf .ch0 = .stdBadpar ∧
    (withBuf [0x55, 0x00, 0x01, 0x00, 0x03, 0x00, 0x00, 0xA6, 0x04, 0xE8]).leaf .ch0 = .stdBadcrc ∧
    (withBuf [0x55, 0x00, 0x01, 0x00, 0x03, 0x00, 0x00, 0xA6, 0x04, 0xE7]).leaf .ch0 = .stdEmit 0 ∧
    ((withBuf [0xAA, 0x55, 0x00, 0x01]).loopStep .ch0).isSome = true := by
  decide +kernel

theorem witness_UnselectedOperationIsRefused :
    Instr.frmGarbage .ch0 ≠ leafInstr .ch0 (State.reset.leaf .ch0) ∧
    ((withBuf (List.replicate 131072 0xAA)).frm .ch0).buf.length ≤ 131072 := by
  refine ⟨by decide +kernel, ?_⟩
  rw [show ((withBuf (List.replicate 131072 0xAA)).frm .ch0).buf = List.replicate 131072 0xAA from rfl,
    List.length_replicate]

/-- A buffer for each wait, the longest that still waits where the rule gives a length. -/
theorem witness_WaitsKeepAllState :
    search defaultWire [0xAA, 0x55, 0x00] = none ∧
    (let b := [0x01, 0x05, 0xFA] ++ List.replicate 129 (0x1A : Byte);
      search defaultWire b = some (0, .xm) ∧ b.length < 3 + (if byteAt b 0 = defaultWire.soh then 128 else 1024) + 2) ∧
    (let b := [0x02, 0x00, 0xFF] ++ List.replicate 1025 (0x1A : Byte);
      search defaultWire b = some (0, .xm) ∧ b.length < 3 + (if byteAt b 0 = defaultWire.soh then 128 else 1024) + 2) ∧
    (let b : List Byte := [0x55, 0x00, 0x01, 0x02, 0x04, 0x00, 0x02];
      search defaultWire b = some (0, .std) ∧ b.length < 8) ∧
    (let b : List Byte := [0x55, 0x00, 0x01, 0x02, 0x04, 0x00, 0x02, 0xA1, 0x11, 0x22, 0x5C];
      search defaultWire b = some (0, .std) ∧ 8 ≤ b.length ∧ byteAt b 7 = hdrChk defaultWire (slice b 0 7) ∧
      b.length < 8 + (be16 (byteAt b 5) (byteAt b 6)).toNat + 2) := by
  decide +kernel

theorem witness_HeaderValidIffSumIs255 :
    defaultWire.hdrChkOnes = true ∧ 8 ≤ (f1.take 8).length ∧ byteAt (f1.take 8) 7 = hdrChk defaultWire (slice (f1.take 8) 0 7) := by
  decide +kernel

theorem witness_GarbageIsReported :
    search State.reset.cfg.wire ((withBuf [0xAA, 0x55, 0x00, 0x01]).frm .ch0).buf = some (1, .std) ∧ 0 < 1 := by
  decide +kernel

theorem witness_XmodemBlocksAreConsumed :
    State.reset.cfg.wire = defaultWire ∧ (0x05 : Byte) + 0xFA = 0xFF ∧ 130 ≤ (List.replicate 130 (0 : Byte)).length ∧
    1026 ≤ (List.replicate 1026 (0 : Byte)).length ∧
    ((withBuf (0x01 :: 0x05 :: 0xFA :: List.replicate 130 0)).frm .ch0).buf = 0x01 :: 0x05 :: 0xFA :: List.replicate 130 0 ∧
    ((withBuf (0x02 :: 0x05 :: 0xFA :: List.replicate 1026 0)).frm .ch0).buf =
      0x02 :: 0x05 :: 0xFA :: List.replicate 1026 0 := by
  decide +kernel

theorem witness_BadHeaderDropsMarker :
    let b : List Byte := [0x55, 0x00, 0x01, 0x02, 0x04, 0x00, 0x02, 0xA0];
    defaultWire.hdrChkOnes = true ∧ ((withBuf b).frm .ch0).buf = 0x55 :: 0x00 :: 0x01 :: b.drop 3 ∧ 8 ≤ b.length ∧
    byteAt b 7 ≠ not8 (sum8 (slice b 0 7)) := by
  decide +kernel

/-- The frame with no payload, its CRC right and wrong: L at its least value, the buffer at its shortest. -/
theorem witness_ValidFrameIsPushed_and_BadCrcDropsMarker :
    (let b : List Byte := [0x55, 0x00, 0x01, 0x00, 0x03, 0x00, 0x00, 0xA6, 0x04, 0xE7];
      let len := (be16 (byteAt b 5) (byteAt b 6)).toNat;
      ((withBuf b).frm .ch0).buf = 0x55 :: 0x00 :: 0x01 :: b.drop 3 ∧ byteAt b 7 = not8 (sum8 (slice b 0 7)) ∧
      8 + len + 2 ≤ b.length ∧ crc16 defaultTables (slice b 0 (8 + len)) = (byteAt b (8 + len), byteAt b (9 + len))) ∧
    (let b : List Byte := [0x55, 0x00, 0x01, 0x00, 0x03, 0x00, 0x00, 0xA6, 0x04, 0xE8];
      let len := (be16 (byteAt b 5) (byteAt b 6)).toNat;
      ((withBuf b).frm .ch0).buf = 0x55 :: 0x00 :: 0x01 :: b.drop 3 ∧ byteAt b 7 = not8 (sum8 (slice b 0 7)) ∧
      8 + len + 2 ≤ b.length ∧ crc16 defaultTables (slice b 0 (8 + len)) ≠ (byteAt b (8 + len), byteAt b (9 + len))) := by
  decide +kernel

theorem witness_FrameRoundTrip :
    (State.reset.frm .ch0).buf = [] ∧ (List.replicate 65535 (0 : Byte)).length ≤ 65535 :=
  ⟨rfl, by rw [List.length_replicate]⟩

/-- FRAME(2, 4, 11 22) is F1 (R98). -/
theorem witness_frameBytes_is_f1 : frameBytes defaultParams 2 4 [0x11, 0x22] = f1 := by decide +kernel

/-- Two bytes of garbage, the second the beginning of a marker, before F1: no candidate begins in them. -/
theorem witness_GarbageThenFrame :
    (State.reset.frm .ch0).buf = [] ∧ [0xAA, 0x55] ≠ ([] : List Byte) ∧
    ∀ (j : Nat) (k : FmtKind), j < [(0xAA : Byte), 0x55].length →
      ¬ IsCandidate defaultWire ([0xAA, 0x55] ++ frameBytes defaultParams 2 4 [0x11, 0x22]) j k := by
  rw [witness_frameBytes_is_f1]
  refine ⟨rfl, by decide, fun j k hj h => ?_⟩
  match j, hj with
  | 0, _ => cases k <;> simp [IsCandidate, f1, byteAt, defaultWire] at h
  | 1, _ => cases k <;> simp [IsCandidate, f1, byteAt, defaultWire] at h

/-- The marker in two chunks, on the reset state: no chunk meets a buffer over the bound. -/
theorem witness_ChunkingInvariance :
    [[0x55], [0x00, (0x01 : Byte)]] ≠ [] ∧
    ∀ (k : Nat) (u : State), k < [[0x55], [0x00, (0x01 : Byte)]].length →
      execAll (([[0x55], [0x00, 0x01]].take k).map (Instr.frmAdd .ch0)) State.reset = .next u →
      (u.frm .ch0).buf.length ≤ 131072 := by
  refine ⟨by decide, fun k u hk h => ?_⟩
  match k, hk with
  | 0, _ => cases h; decide
  | 1, _ => cases h; decide +kernel

/-- An instance with nothing in it has the invariant. -/
theorem frm_reset_inv (cfg : Params) (ch : Chan) : FrmInv cfg ch Frm.reset :=
  ⟨rfl, rfl, List.suffix_rfl, by simp [Frm.reset], by simp [Frm.reset]⟩

theorem witness_StepKeepsInvariant :
    Inv pendingF1 ∧ step pendingF1 = .next ((({ pendingF1 with host := [] } : State).add .ch0 f1).returning .nothing) :=
  ⟨fun ch => by cases ch <;> exact frm_reset_inv _ _, rfl⟩

theorem witness_ChannelsAreIndependent :
    Instr.reset ∉ [Instr.frmAdd .ch0 [0x55], .frmAdd .ch1 [0xAA], .crcInit, .frmTake .ch0] ∧
    ∃ t : State, execAll [.frmAdd .ch0 [0x55], .frmAdd .ch1 [0xAA], .crcInit, .frmTake .ch0] State.reset = .next t :=
  ⟨by decide, _, rfl⟩

theorem witness_FramerOpsTouchOneInstance :
    instrChan (.frmTake .ch1) = some .ch1 ∧ State.reset.cfg = pendingF1.cfg ∧
    State.reset.frm .ch1 = pendingF1.frm .ch1 ∧
    exec (.frmTake .ch1) State.reset = .next (State.reset.returning (.frames [])) := ⟨rfl, rfl, rfl, rfl⟩

/-- The four stalls: no candidate; a valid frame behind the header of an incomplete block; seven bytes of a standard frame; a
frame one byte short. -/
theorem witness_StalledAddOnlyStores :
    (State.reset.frm .ch0).buf.length ≤ 131072 ∧ search defaultWire ([] ++ [0xAA, 0x55, 0x00]) = none ∧
    (let b := [0x01, 0x05, 0xFA] ++ f1;
      search defaultWire b = some (0, .xm) ∧ b.length < 3 + (if byteAt b 0 = defaultWire.soh then 128 else 1024) + 2) ∧
    (search defaultWire (f1.take 7) = some (0, .std) ∧ (f1.take 7).length < 8) ∧
    (let b := f1.take 11;
      search defaultWire b = some (0, .std) ∧ 8 ≤ b.length ∧ byteAt b 7 = hdrChk defaultWire (slice b 0 7) ∧
      b.length < 8 + (be16 (byteAt b 5) (byteAt b 6)).toNat + 2) := by
  decide +kernel

theorem witness_XmodemBookkeepingIsInert :
    let s : State := { State.reset with frm0 := { Frm.reset with xmLast := some 5, xmGap := true } }
    blindXm s = blindXm State.reset ∧ s ≠ State.reset ∧ exec .crcInit s = .next ((s.setCrc crcStart).returning .nothing) ∧
    exec (.frmXmWait .ch0) s = .refused (.notSelected "FRM.XM.WAIT") :=
  ⟨rfl, fun h => by simpa [State.reset, Frm.reset] using congrArg (fun s => s.frm0.xmLast) h, rfl, rfl⟩

theorem witness_IdentificationSteps :
    2 ≤ [(0x01 : Byte), 0x02].length ∧ [(0x01 : Byte)].length < 2 ∧ ¬((1 : Byte) = 1 ∧ (3 : Half) = 2) ∧
    ¬((0 : Byte) = 1 ∧ (2 : Half) = 2) := by
  decide

theorem witness_ScalarDecoders : [(0x64 : Byte)].length < 2 ∧ [(1 : Byte), 2, 3].length < 4 := by decide

theorem witness_BlobDecoders :
    (List.replicate 65535 (0 : Byte)).length ≤ 65535 ∧ [(0 : Byte)].length < 2 ∧
    (let v : List Byte := [0x00, 0x02, 0xDE]; v.length < 2 + (be16 (byteAt v 0) (byteAt v 1)).toNat) :=
  ⟨by rw [List.length_replicate], by decide, by decide⟩

theorem witness_FallbacksShowRawOrTrunc :
    (withExt { ExtOut.empty with value := .valreq }).ext.value = .valreq ∧ State.reset.ext.value ≠ .valreq := by
  decide +kernel

theorem witness_TagDispatch :
    State.reset.cfg.wire = defaultWire ∧ 6 < (7 : Byte).toNat ∧ 6 < (255 : Byte).toNat ∧ [(1 : Byte), 2].length < 3 := by
  decide +kernel

theorem witness_DirectionAndType : 6 ≤ (6 : Byte).toNat ∧ 6 ≤ (255 : Byte).toNat := by decide

theorem witness_AckReplacesValue : (4 : Byte) ≠ 3 ∧ [(1 : Byte), 2, 0].length < 4 := by decide

/-- A record at the least values of its signed fields, with 13 surplus bytes, and the state whose generic value holds it. -/
theorem witness_TrackExtractsRecords :
    let r : Target := { id := -128, x := -32768, y := 32767, z := 0, velocity := -1, snr := 0xFFFF, classifier := 0,
                        posture := 0, active := 0 }
    let b := (2 : Byte) :: ([r].flatMap targetBytes ++ List.replicate 13 0)
    let s := withExt (shown .track (.blob2 b))
    s.cfg.wire.trackBigEndian = true ∧ s.ext.cls = .track ∧ (∀ r' ∈ [r], TargetFits r') ∧
    (List.replicate 13 (0 : Byte)).length < 14 ∧ s.ext.generic = some (.blob2 b) ∧
    blobBytes (withExt (shown .track (.blob2 []))).ext.generic = some [] ∧ blobBytes State.reset.ext.generic = none := by
  refine ⟨rfl, rfl, ?_, by decide, rfl, rfl, rfl⟩
  intro r' hr
  rw [List.mem_singleton] at hr
  subst hr
  simp [TargetFits, fitsInt]

theorem witness_ZoneWordsAreSplit :
    (withExt (shown .zoneMotion (.u16 (be16 3 1)))).ext.generic = some (.u16 (be16 3 1)) ∧
    (withExt (shown .zoneMotion (.u16 0))).ext.cls = .zoneMotion ∧
    (withExt (shown .zonePresence (.u16 0))).ext.cls = .zonePresence ∧
    (withExt (shown .zoneType (.u16 0))).ext.cls = .zoneType ∧
    (∀ w : Half, State.reset.ext.generic ≠ some (.u16 w)) ∧ State.reset.ext.cls ≠ .zoneMotion :=
  ⟨rfl, rfl, rfl, rfl, fun _ h => by simp [State.reset, ExtOut.empty] at h, by decide +kernel⟩

theorem witness_BitmapsAreExtracted :
    let rows := List.replicate 20 (0x8001 : Half)
    rows.length = 20 ∧
    blobBytes (withExt (shown .bitmap (.blob2 (rows.flatMap be16Bytes)))).ext.generic = some (rows.flatMap be16Bytes) ∧
    blobBytes (withExt (shown .bitmapZone (.blob2 (5 :: rows.flatMap be16Bytes)))).ext.generic =
      some (5 :: rows.flatMap be16Bytes) ∧
    (5 :: rows.flatMap be16Bytes).length ≠ 40 ∧ (rows.flatMap be16Bytes).length ≠ 41 := by
  decide +kernel

theorem witness_EnumCodesAreShown :
    (withExt (shown .lrrev (.u8 1))).ext.generic = some (.u8 1) ∧ (1 : Long) = (1 : Byte).setWidth 32 ∧
    (withExt (shown .lrrev (.u8 1))).ext.cls = .lrrev ∧ (withExt (shown .mount (.u32 1))).ext.cls = .mount ∧
    intCode (withExt (shown .mount .void)).ext.generic = none ∧
    ({ shown .mount (.u8 1) with value := .enum 1 } : ExtOut).value = .enum 1 := by
  decide +kernel

/-- Both branches occur: an excluded id and one that is not. -/
theorem witness_DecodeRunsItsSteps :
    f1Frame.payload.length ≤ 65535 ∧
    (outExclude { defaultParams with exclude := [0x1122] } (outSubid defaultParams f1Frame.payload .empty)).suppressed = true ∧
    (outExclude defaultParams (outSubid defaultParams f1Frame.payload .empty)).suppressed = false := by
  decide +kernel

theorem witness_AckOverridesAnyLayout :
    let f : Frame := { sequence := 0, type := 3, payload := [0x01, 0x02, 0x00, 0x05], raw := [] }
    f.type = 3 ∧ f.payload = 0x01 :: 0x02 :: 0x00 :: 0x05 :: [] ∧
    State.reset.cfg.exclude.contains (be16 0x01 0x02) = false := by
  decide +kernel

theorem witness_ExtractorTouchesOnlyItsRecord : isExt .extMount = true := rfl

theorem witness_GenericValueRoundTrip_and_WireToFieldEndToEnd :
    State.reset.cfg.wire = defaultWire ∧ GenericFits (.blob1 (List.replicate 65530 0x61) true) ∧
    State.reset.cfg.exclude.contains 0x0102 = false ∧ (State.reset.frm .ch1).buf = [] ∧
    (State.reset.frm .ch1).ready = [] ∧ classOf State.reset.cfg 0x0102 = .none ∧ (5 : Byte) ≠ 3 := by
  refine ⟨rfl, ⟨by rw [List.length_replicate], ?_⟩, rfl, rfl, rfl, rfl, by decide⟩
  rw [isAscii, List.all_replicate]
  decide

theorem witness_ParametersAreNeverWritten :
    exec (.crcStep 0) State.reset =
      .next ((State.reset.setCrc (crcUpdate State.reset.cfg.tables State.reset.crcPair 0)).returning .nothing) := rfl

end Sys2Proof.Tests
end

section
/-! PROOFS. The CRC operations (40_crc.md): what each returns, written over the state's updates; a row of CRC.STEPs as the fold
of one step over its bytes (R121, R123); and the statements settled with them. -/

namespace Sys2Proof.Machine

/-! ### What each CRC operation does -/

theorem exec_crcInit (s : State) : exec .crcInit s = .next ((s.setCrc crcStart).returning .nothing) := rfl

theorem exec_crcStep (b : Byte) (s : State) :
    exec (.crcStep b) s = .next ((s.setCrc (crcUpdate s.cfg.tables s.crcPair b)).returning .nothing) := rfl

theorem exec_crcOut (s : State) : exec .crcOut s = .next (s.returning (.crc s.crcLo s.crcHi)) := rfl

theorem exec_crc16 (bytes : List Byte) (s : State) :
    exec (.crc16 bytes) s =
      .next (s.crcDone.returning (.crc (crc16 s.cfg.tables bytes).1 (crc16 s.cfg.tables bytes).2)) := rfl

/-! ### The accumulator and the returned value: the last write counts -/

@[simp] theorem State.setCrc_crcPair (s : State) (acc : Byte × Byte) : (s.setCrc acc).crcPair = acc := rfl

@[simp] theorem State.returning_crcPair (s : State) (r : Ret) : (s.returning r).crcPair = s.crcPair := rfl

@[simp] theorem State.setCrc_setCrc (s : State) (acc acc' : Byte × Byte) : (s.setCrc acc).setCrc acc' = s.setCrc acc' := rfl

@[simp] theorem State.returning_returning (s : State) (r r' : Ret) : (s.returning r).returning r' = s.returning r' := rfl

@[simp] theorem State.setCrc_returning (s : State) (r : Ret) (acc : Byte × Byte) :
    (s.returning r).setCrc acc = (s.setCrc acc).returning r := rfl

/-! ### Operations in a row -/

theorem execAll_cons_of_next {i : Instr} {s t : State} (h : exec i s = .next t) (is : List Instr) :
    execAll (i :: is) s = execAll is t := by
  rw [execAll, h]

theorem execAll_singleton_of_next {i : Instr} {s t : State} (h : exec i s = .next t) : execAll [i] s = .next t :=
  execAll_cons_of_next h []

theorem execAll_append_of_next {is : List Instr} {s t : State} (h : execAll is s = .next t) (js : List Instr) :
    execAll (is ++ js) s = execAll js t := by
  induction is generalizing s with
  | nil =>
    obtain rfl : s = t := by simpa only [execAll, Host.Outcome.next.injEq] using h
    rfl
  | cons i is ih =>
    cases hi : exec i s with
    | next u =>
      rw [execAll_cons_of_next hi] at h
      rw [List.cons_append, execAll_cons_of_next hi, ih h]
    | fault r => simp [execAll, hi] at h
    | refused r => simp [execAll, hi] at h

/-- From an accumulator just written, CRC.STEPs in a row write the fold of the step over their bytes: the state between two
steps is again one whose accumulator was just written and that returned nothing, so the induction is over the accumulator. -/
theorem execAll_crcSteps (bytes : List Byte) (acc : Byte × Byte) (s : State) :
    execAll (bytes.map Instr.crcStep) ((s.setCrc acc).returning .nothing) =
      .next ((s.setCrc (bytes.foldl (crcUpdate s.cfg.tables) acc)).returning .nothing) := by
  induction bytes generalizing acc with
  | nil => rfl
  | cons b bs ih =>
    have hstep : exec (.crcStep b) ((s.setCrc acc).returning .nothing) =
        .next ((s.setCrc (crcUpdate s.cfg.tables acc b)).returning .nothing) := by
      simp [exec_crcStep]
    rw [List.map_cons, execAll_cons_of_next hstep, ih, List.foldl_cons]

/-- CRC.INIT and then the steps of a byte sequence leave its CRC16 in the accumulator (R123). -/
theorem execAll_crcInit_crcSteps (bytes : List Byte) (s : State) :
    execAll (.crcInit :: bytes.map Instr.crcStep) s =
      .next ((s.setCrc (crc16 s.cfg.tables bytes)).returning .nothing) := by
  rw [execAll_cons_of_next (exec_crcInit s), execAll_crcSteps, crc16]

/-! ### The statements -/

/-- Settles O9: the row leaves the CRC16 in the accumulator (`execAll_crcInit_crcSteps`) and CRC.OUT returns it; the operation
CRC16 returns the same pair, with the values of `crcDone` as the free accumulator. -/
theorem crc16RunsInitStepsOut : Obligations.Crc16RunsInitStepsOut := by
  intro s bytes
  constructor
  · rw [← List.cons_append, execAll_append_of_next (execAll_crcInit_crcSteps bytes s),
      execAll_singleton_of_next (exec_crcOut _)]
    rfl
  · exact ⟨s.crcDone.crcLo, s.crcDone.crcHi, s.crcDone.freeCount, exec_crc16 bytes s⟩

/-- Settles O6: CRC.INIT writes `crcStart`, which is all ones (R120). -/
theorem crcInitSetsAllOnes : Obligations.CrcInitSetsAllOnes :=
  exec_crcInit

end Sys2Proof.Machine
end

section
/-! PROOFS. The framer's steps (41_framer.md): what each operation does once its leaf is selected, R143's tree over the bytes of
the buffer, the search against the independent reading of a candidate (R84, R85, R144); and the statements settled with them. -/

namespace Sys2Proof.Machine

/-! ### What each operation does where the buffer selects it -/

theorem exec_frmAppend (ch : Chan) (chunk : List Byte) (s : State) :
    exec (.frmAppend ch chunk) s = .next ((s.append ch chunk).returning .nothing) := rfl

theorem exec_frmSearch (ch : Chan) (s : State) :
    exec (.frmSearch ch) s = .next (s.returning (.cand (search s.cfg.wire (s.frm ch).buf))) := rfl

theorem exec_frmTake (ch : Chan) (s : State) :
    exec (.frmTake ch) s =
      .next ((s.setFrm ch { s.frm ch with ready := [] }).returning (.frames (s.frm ch).ready)) := rfl

/-- A wait that the buffer selects changes nothing (R145, R148, R152, R156). -/
theorem exec_leafInstr_of_isWait {s : State} {ch : Chan} {leaf : LoopLeaf} (hleaf : s.leaf ch = leaf)
    (hwait : isWait leaf = true) : exec (leafInstr ch leaf) s = .next (s.returning .nothing) := by
  cases leaf with
  | waitNocand => exact if_pos hleaf
  | xmWait => exact if_pos hleaf
  | stdWait8 => exact if_pos hleaf
  | stdWaitlen => exact if_pos hleaf
  | garbage _ | xm128 | xm1k | stdBadpar | stdBadcrc | stdEmit _ => cases hwait

theorem exec_frmGarbage {s : State} {ch : Chan} {i : Nat} (hleaf : s.leaf ch = .garbage i) :
    exec (.frmGarbage ch) s = .next ((s.garbage ch i).returning .nothing) := by
  change execFrmGarbage ch s = _
  rw [execFrmGarbage, hleaf]

theorem exec_frmStdBadpar {s : State} {ch : Chan} (hleaf : s.leaf ch = .stdBadpar) :
    exec (.frmStdBadpar ch) s = .next ((s.badpar ch).returning .nothing) :=
  if_pos hleaf

theorem exec_frmStdBadcrc {s : State} {ch : Chan} (hleaf : s.leaf ch = .stdBadcrc) :
    exec (.frmStdBadcrc ch) s = .next ((s.badcrc ch).returning .nothing) :=
  if_pos hleaf

theorem exec_frmStdEmit {s : State} {ch : Chan} {len : Nat} (hleaf : s.leaf ch = .stdEmit len) :
    exec (.frmStdEmit ch) s = .next ((s.emit ch len).returning .nothing) := by
  change execFrmStdEmit ch s = _
  rw [execFrmStdEmit, hleaf]

/-! ### R143's tree over the bytes of the buffer -/

theorem leaf_of_search_none {s : State} {ch : Chan} (h : search s.cfg.wire (s.frm ch).buf = none) :
    s.leaf ch = .waitNocand := by
  rw [State.leaf, selectLeaf, h]

theorem leaf_of_search_pos {s : State} {ch : Chan} {i : Nat} {k : FmtKind}
    (h : search s.cfg.wire (s.frm ch).buf = some (i, k)) (hi : 0 < i) : s.leaf ch = .garbage i := by
  simp only [State.leaf, selectLeaf, h, if_pos hi]

/-- An XMODEM block shorter than its start byte announces waits (R83, R148). -/
theorem leaf_of_xm_incomplete {s : State} {ch : Chan} (h : search s.cfg.wire (s.frm ch).buf = some (0, .xm))
    (hlen : (s.frm ch).buf.length < 3 + (if byteAt (s.frm ch).buf 0 = s.cfg.wire.soh then 128 else 1024) + 2) :
    s.leaf ch = .xmWait := by
  have hblock : haveBlock s.cfg.wire (s.frm ch).buf = false := by
    split_ifs at hlen with hsoh <;> simpa [haveBlock, blkOf, hsoh] using hlen
  simp [State.leaf, selectLeaf, h, hblock]

/-- The standard branch of the tree: the four tests in the rule's order (R143, R151 to R154, R156). -/
theorem leaf_of_std {s : State} {ch : Chan} (h : search s.cfg.wire (s.frm ch).buf = some (0, .std)) :
    let buf := (s.frm ch).buf
    s.leaf ch =
      if buf.length < 8 then .stdWait8
      else if byteAt buf 7 ≠ hdrChk s.cfg.wire (slice buf 0 7) then .stdBadpar
      else if buf.length < 8 + declLen buf + 2 then .stdWaitlen
      else if crc16 s.cfg.tables (slice buf 0 (8 + declLen buf)) ≠ (byteAt buf (8 + declLen buf), byteAt buf (9 + declLen buf))
      then .stdBadcrc
      else .stdEmit (declLen buf) := by
  have htrl (n : Nat) : 8 + n + 1 = 9 + n := by omega
  simp [State.leaf, selectLeaf, h, have8, parOk, haveAll, crcOk, htrl]

/-- A buffer that begins with the marker has its earliest candidate there (R85, R144). -/
theorem search_marker (w : WireParams) (rest : List Byte) : search w (0x55 :: 0x00 :: 0x01 :: rest) = some (0, .std) := rfl

/-- The header checksum under D7's reading of "complement". -/
theorem hdrChk_of_ones {w : WireParams} (h : w.hdrChkOnes = true) (bytes : List Byte) :
    hdrChk w bytes = not8 (sum8 bytes) :=
  if_pos h

/-- A complete frame with a valid header at the head of the buffer: the CRC trailer alone decides (R153, R154). -/
theorem leaf_of_complete_frame {s : State} {ch : Chan} {rest : List Byte} (hones : s.cfg.wire.hdrChkOnes = true)
    (hbuf : (s.frm ch).buf = 0x55 :: 0x00 :: 0x01 :: rest)
    (hhdr : byteAt (s.frm ch).buf 7 = not8 (sum8 (slice (s.frm ch).buf 0 7)))
    (hlen : 8 + declLen (s.frm ch).buf + 2 ≤ (s.frm ch).buf.length) :
    let buf := (s.frm ch).buf
    s.leaf ch =
      if crc16 s.cfg.tables (slice buf 0 (8 + declLen buf)) ≠ (byteAt buf (8 + declLen buf), byteAt buf (9 + declLen buf))
      then .stdBadcrc
      else .stdEmit (declLen buf) := by
  have hsearch : search s.cfg.wire (s.frm ch).buf = some (0, .std) := by rw [hbuf, search_marker]
  rw [leaf_of_std hsearch, if_neg (by omega), if_neg (by simp [hdrChk_of_ones hones, hhdr]), if_neg (by omega)]

/-! ### The marker dropped (R151, R153) -/

/-- A failed check of a standard frame reports and drops exactly the marker, whatever the reason. -/
theorem Frm.raise_marker {f : Frm} {rest : List Byte} (hbuf : f.buf = 0x55 :: 0x00 :: 0x01 :: rest) (ch : Chan) (r : Reason) :
    f.raise ch Config.stdDiscard r = { f with
      buf := rest
      ev := f.ev ++ [.diag ch [0x55, 0x00, 0x01] r]
      hist := f.hist ++ [.diag [0x55, 0x00, 0x01] r] } := by
  simp [Frm.raise, Frm.consume, hbuf]

/-! ### The search against the candidates of R84 and R85 -/

theorem isMarker_iff (a b c : Byte) : isMarker a b c = true ↔ a = 0x55 ∧ b = 0x00 ∧ c = 0x01 := by
  simp [isMarker]

theorem isXmHeader_iff (w : WireParams) (a b c : Byte) :
    isXmHeader w a b c = true ↔ (a = w.soh ∨ a = w.stx) ∧ b + c = 0xFF := by
  simp [isXmHeader]

/-- The two formats exclude each other whatever the start bytes are: the marker's last two bytes do not sum to 0xFF. -/
theorem isXmHeader_eq_false_of_isMarker (w : WireParams) {a b c : Byte} (h : isMarker a b c = true) :
    isXmHeader w a b c = false := by
  obtain ⟨-, rfl, rfl⟩ := (isMarker_iff a b c).mp h
  simp [isXmHeader]

theorem candidateAt_eq_none_of_length_lt {w : WireParams} {l : List Byte} (h : l.length < 3) : candidateAt w l = none :=
  Option.eq_none_iff_forall_ne_some.mpr fun _ hk => absurd (candidateAt_length hk) (by omega)

theorem candidateAt_cons_std_iff (w : WireParams) (a b c : Byte) (l : List Byte) :
    candidateAt w (a :: b :: c :: l) = some .std ↔ isMarker a b c = true := by
  rw [candidateAt]
  split_ifs with hm <;> simp [hm]

theorem candidateAt_cons_xm_iff (w : WireParams) (a b c : Byte) (l : List Byte) :
    candidateAt w (a :: b :: c :: l) = some .xm ↔ isXmHeader w a b c = true := by
  rw [candidateAt]
  split_ifs with hm hx
  · simp [isXmHeader_eq_false_of_isMarker w hm]
  · simp [hx]
  · simp [hx]

/-- A list read at an offset that leaves three bytes. -/
theorem drop_eq_three_bytes {buf : List Byte} {i : Nat} (h : i + 2 < buf.length) :
    buf.drop i = byteAt buf i :: byteAt buf (i + 1) :: byteAt buf (i + 2) :: buf.drop (i + 3) := by
  simp only [byteAt]
  rw [List.drop_eq_getElem_cons (by omega), List.drop_eq_getElem_cons (by omega), List.drop_eq_getElem_cons h,
    List.getD_eq_getElem, List.getD_eq_getElem, List.getD_eq_getElem]

/-- The model's test at the head of the rest of the buffer decides the independent reading of a candidate. -/
theorem candidateAt_drop_iff (w : WireParams) (buf : List Byte) (i : Nat) (k : FmtKind) :
    candidateAt w (buf.drop i) = some k ↔ IsCandidate w buf i k := by
  by_cases hlen : i + 2 < buf.length
  · rw [drop_eq_three_bytes hlen]
    cases k with
    | std => rw [candidateAt_cons_std_iff, isMarker_iff]; exact (and_iff_right hlen).symm
    | xm => rw [candidateAt_cons_xm_iff, isXmHeader_iff]; exact (and_iff_right hlen).symm
  · have hnone : candidateAt w (buf.drop i) = none :=
      candidateAt_eq_none_of_length_lt (by rw [List.length_drop]; omega)
    simp [hnone, IsCandidate, hlen]

/-- No candidate stands before the offset the search answers, and none at all where it answers none. -/
theorem candidateAt_eq_none_before_search {w : WireParams} {buf : List Byte} {j : Nat}
    (h : ∀ i k, search w buf = some (i, k) → j < i) : candidateAt w (buf.drop j) = none := by
  induction buf generalizing j with
  | nil => rw [List.drop_nil]; rfl
  | cons x rest ih =>
    cases hc : candidateAt w (x :: rest) with
    | some k => exact absurd (h 0 k (by rw [search, hc])) (Nat.not_lt_zero j)
    | none =>
      cases j with
      | zero => exact hc
      | succ j =>
        refine ih fun i k hi => Nat.lt_of_succ_lt_succ (h (i + 1) k ?_)
        rw [search, hc, hi, Option.map_some]

/-! ### The statements -/

/-- Settles O23: the operation returns `search`; its answer is a candidate (`search_candidate`), the only one at its offset, and
there is none before it (`candidateAt_eq_none_before_search`). -/
theorem searchReturnsEarliest : Obligations.SearchReturnsEarliest := by
  intro s ch
  refine ⟨search s.cfg.wire (s.frm ch).buf, exec_frmSearch ch s, ?_⟩
  simp only [← candidateAt_drop_iff]
  rcases hsearch : search s.cfg.wire (s.frm ch).buf with _ | ⟨i, k⟩
  · intro j k hcand
    have hnone : candidateAt s.cfg.wire ((s.frm ch).buf.drop j) = none :=
      candidateAt_eq_none_before_search (by simp [hsearch])
    simp [hnone] at hcand
  · have hcand := search_candidate hsearch
    refine ⟨hcand, fun k' hk' => Option.some.inj (hk'.symm.trans hcand), fun j k' hj hk' => ?_⟩
    have hnone : candidateAt s.cfg.wire ((s.frm ch).buf.drop j) = none :=
      candidateAt_eq_none_before_search (by simpa [hsearch] using hj)
    simp [hnone] at hk'

/-- Settles O24: each wait's condition selects its leaf, and a selected wait changes nothing (`exec_leafInstr_of_isWait`). -/
theorem waitsKeepAllState : Obligations.WaitsKeepAllState := by
  intro s ch w buf
  refine ⟨fun hsearch => ?_, fun hsearch hlen => ?_, fun hsearch hlen => ?_, fun hsearch h8 hhdr hlen => ?_⟩
  · exact exec_leafInstr_of_isWait (leaf_of_search_none hsearch) rfl
  · exact exec_leafInstr_of_isWait (leaf_of_xm_incomplete hsearch hlen) rfl
  · have hleaf : s.leaf ch = .stdWait8 := by rw [leaf_of_std hsearch, if_pos hlen]
    exact exec_leafInstr_of_isWait hleaf rfl
  · have hleaf : s.leaf ch = .stdWaitlen := by
      rw [leaf_of_std hsearch, if_neg (Nat.not_lt.mpr h8), if_neg (not_not.mpr hhdr)]
      exact if_pos hlen
    exact exec_leafInstr_of_isWait hleaf rfl

/-- Settles O26: a candidate behind the head selects FRM.GARBAGE with its offset, and raising the event consumes that many
bytes. -/
theorem garbageIsReported : Obligations.GarbageIsReported := by
  intro s ch i k hsearch hi f
  rw [exec_frmGarbage (leaf_of_search_pos hsearch hi), State.garbage_def, State.returning_setFrm]
  rfl

/-- Settles O28: the marker selects the standard branch, whose second test fails. -/
theorem badHeaderDropsMarker : Obligations.BadHeaderDropsMarker := by
  intro s ch rest hones hbuf h8 hhdr
  have hsearch : search s.cfg.wire (s.frm ch).buf = some (0, .std) := by rw [hbuf, search_marker]
  have hleaf : s.leaf ch = .stdBadpar := by
    rw [leaf_of_std hsearch, if_neg (Nat.not_lt.mpr h8), if_pos (by rwa [hdrChk_of_ones hones])]
  rw [exec_frmStdBadpar hleaf, State.badpar_def, State.returning_setFrm, Frm.raise_marker hbuf]
  rfl

/-- Settles O29: of a complete frame with a valid header, a wrong trailer selects FRM.STD.BADCRC; the free accumulator is the
one `crcDone` leaves. -/
theorem badCrcDropsMarker : Obligations.BadCrcDropsMarker := by
  intro s ch rest hones buf len hbuf hhdr hlen hcrc
  have hleaf : s.leaf ch = .stdBadcrc := by
    rw [leaf_of_complete_frame hones hbuf hhdr hlen]
    exact if_pos hcrc
  refine ⟨s.crcDone.crcLo, s.crcDone.crcHi, s.crcDone.freeCount, ?_⟩
  rw [exec_frmStdBadcrc hleaf, State.badcrc_def, State.crcDone_setFrm, State.returning_setFrm, Frm.raise_marker hbuf]
  rfl

/-- Settles O30: of a complete frame with a valid header, a right trailer selects FRM.STD.EMIT with the declared length; the
free accumulator is the one `crcDone` leaves. -/
theorem validFrameIsPushed : Obligations.ValidFrameIsPushed := by
  intro s ch rest hones buf len hbuf hhdr hlen hcrc fr
  have hleaf : s.leaf ch = .stdEmit len := by
    rw [leaf_of_complete_frame hones hbuf hhdr hlen]
    exact if_neg (not_not.mpr hcrc)
  refine ⟨s.crcDone.crcLo, s.crcDone.crcHi, s.crcDone.freeCount, ?_⟩
  rw [exec_frmStdEmit hleaf, State.emit_def, State.crcDone_setFrm, State.returning_setFrm]
  rfl

/-- Settles O16: FRM.APPEND is `State.append`, one replacement of the channel's framer with no test before or after it. -/
theorem appendExtendsBuffer : Obligations.AppendExtendsBuffer := by
  intro s ch chunk
  rw [exec_frmAppend, State.append_def, State.returning_setFrm]
  rfl

/-- Settles O31: FRM.TAKE replaces the channel's framer by one with an empty FIFO and returns the old FIFO. -/
theorem takeDrainsFifo : Obligations.TakeDrainsFifo := by
  intro s ch
  rw [exec_frmTake, State.returning_setFrm]
  rfl

end Sys2Proof.Machine
end

section
/-! PROOFS. The extractor (42_extractor.md): what each step of EXT.DECODE writes, over the state's record; the steps in a row as
the composition of the functions on the record, in R180's order; and the statements settled with them. -/

namespace Sys2Proof.Machine

/-! ### A step's record: the last one written stands -/

@[simp] theorem State.extStep_extStep (s : State) (o o' : ExtOut) : (s.extStep o).extStep o' = s.extStep o' := rfl

/-! ### What each step does -/

theorem exec_extSubid (p : List Byte) (s : State) :
    exec (.extSubid p) s = .next (s.extStep (outSubid s.cfg p s.ext)) := rfl

theorem exec_extExclude (s : State) :
    exec .extExclude s = .next ((s.setExt (outExclude s.cfg s.ext)).returning (.excluded (excludes s.cfg s.ext))) := rfl

theorem exec_extValreq (t : Byte) (n : Half) (s : State) :
    exec (.extValreq t n) s = .next (s.extStep (outValreq t n.toNat s.ext)) := rfl

theorem exec_extTag (p : List Byte) (s : State) :
    exec (.extTag p) s = .next (s.extStep (outTag s.cfg p s.ext)) := rfl

theorem exec_extDir (ch : Chan) (s : State) : exec (.extDir ch) s = .next (s.extStep (outDir ch s.ext)) := rfl

theorem exec_extType (t : Byte) (s : State) : exec (.extType t) s = .next (s.extStep (outType t s.ext)) := rfl

theorem exec_extAck (t : Byte) (p : List Byte) (s : State) :
    exec (.extAck t p) s = .next (s.extStep (outAck t p s.ext)) := rfl

theorem exec_extTrack (t : Byte) (s : State) :
    exec (.extTrack t) s = .next (s.extStep (outTrack s.cfg t s.ext)) := rfl

theorem exec_extZoneMotion (s : State) : exec .extZoneMotion s = .next (s.extStep (outZoneMotion s.ext)) := rfl

theorem exec_extZonePresence (s : State) : exec .extZonePresence s = .next (s.extStep (outZonePresence s.ext)) := rfl

theorem exec_extBitmap (s : State) : exec .extBitmap s = .next (s.extStep (outBitmap s.ext)) := rfl

theorem exec_extBitmapZone (s : State) : exec .extBitmapZone s = .next (s.extStep (outBitmapZone s.ext)) := rfl

theorem exec_extZoneEnum (s : State) : exec .extZoneEnum s = .next (s.extStep (outZoneEnum s.ext)) := rfl

theorem exec_extLrrev (s : State) : exec .extLrrev s = .next (s.extStep (outLrrev s.ext)) := rfl

theorem exec_extMount (s : State) : exec .extMount s = .next (s.extStep (outMount s.ext)) := rfl

theorem exec_extDecode (ch : Chan) (f : Frame) (s : State) :
    exec (.extDecode ch f) s =
      .next ((s.setExt (decodeOut s.cfg ch f)).returning (.ext (decodeOut s.cfg ch f))) := rfl

/-! ### The steps in a row (R180) -/

/-- The steps that read the payload generically and name its direction and kind (R183, R184, R194, R195). -/
def genericSteps (ch : Chan) (f : Frame) : List Instr :=
  [.extValreq f.type (BitVec.ofNat 16 f.payload.length), .extTag f.payload, .extDir ch, .extType f.type]

/-- The structured overrides in their order of precedence (R229). -/
def overrideSteps (t : Byte) : List Instr :=
  [.extTrack t, .extZoneMotion, .extZonePresence, .extBitmap, .extBitmapZone, .extZoneEnum, .extLrrev, .extMount]

theorem decodeSteps_eq (ch : Chan) (f : Frame) :
    decodeSteps ch f = genericSteps ch f ++ (overrideSteps f.type ++ [.extAck f.type f.payload]) := rfl

/-- The record behind the generic steps. -/
def outGenericSteps (cfg : Params) (ch : Chan) (f : Frame) (o : ExtOut) : ExtOut :=
  outType f.type (outDir ch (outTag cfg f.payload (outValreq f.type f.payload.length o)))

/-- The record behind all the steps after EXT.EXCLUDE. -/
def outSteps (cfg : Params) (ch : Chan) (f : Frame) (o : ExtOut) : ExtOut :=
  outAck f.type f.payload (outOverrides cfg f.type (outGenericSteps cfg ch f o))

/-- What EXT.DECODE does after EXT.EXCLUDE is its steps and the sequence. -/
theorem outBody_eq (cfg : Params) (ch : Chan) (f : Frame) (o : ExtOut) :
    outBody cfg ch f o = { outSteps cfg ch f o with sequence := some f.sequence } := rfl

/-- EXT.VALREQ gets the payload's length in 16 bits: this is where R25's bound on a payload is needed. -/
theorem execAll_genericSteps (ch : Chan) {f : Frame} (hlen : f.payload.length ≤ 65535) (s : State) :
    execAll (genericSteps ch f) s = .next (s.extStep (outGenericSteps s.cfg ch f s.ext)) := by
  have hn : (BitVec.ofNat 16 f.payload.length).toNat = f.payload.length :=
    Nat.mod_eq_of_lt (Nat.lt_succ_of_le hlen)
  simp only [genericSteps, execAll, exec_extValreq, exec_extTag, exec_extDir, exec_extType, State.extStep_cfg,
    State.extStep_ext, State.extStep_extStep, hn, outGenericSteps]

theorem execAll_overrideSteps (t : Byte) (s : State) :
    execAll (overrideSteps t) s = .next (s.extStep (outOverrides s.cfg t s.ext)) := by
  simp only [overrideSteps, execAll, exec_extTrack, exec_extZoneMotion, exec_extZonePresence, exec_extBitmap,
    exec_extBitmapZone, exec_extZoneEnum, exec_extLrrev, exec_extMount, State.extStep_ext, State.extStep_extStep,
    outOverrides]

theorem execAll_decodeSteps (ch : Chan) {f : Frame} (hlen : f.payload.length ≤ 65535) (s : State) :
    execAll (decodeSteps ch f) s = .next (s.extStep (outSteps s.cfg ch f s.ext)) := by
  rw [decodeSteps_eq, execAll_append_of_next (execAll_genericSteps ch hlen s),
    execAll_append_of_next (execAll_overrideSteps f.type _), execAll_singleton_of_next (exec_extAck _ _ _)]
  rfl

/-- On an empty record, EXT.SUBID and EXT.EXCLUDE leave the record EXT.DECODE decides by (R182). -/
theorem execAll_extSubid_extExclude (p : List Byte) (s : State) :
    execAll [.extSubid p, .extExclude] (s.setExt .empty) =
      .next ((s.setExt (outExclude s.cfg (outSubid s.cfg p .empty))).returning
        (.excluded (excludes s.cfg (outSubid s.cfg p .empty)))) := by
  rw [execAll_cons_of_next (exec_extSubid p _), execAll_singleton_of_next (exec_extExclude _)]
  rfl

/-! ### The kind of a type byte (R195) -/

theorem tkindOf_eq_typeUnknown {t : Byte} (h : t = 0 ∨ 6 ≤ t.toNat) : tkindOf t = .typeUnknown := by
  have hne : t ≠ 1 ∧ t ≠ 2 ∧ t ≠ 3 ∧ t ≠ 4 ∧ t ≠ 5 := by
    refine ⟨?_, ?_, ?_, ?_, ?_⟩ <;> (rintro rfl; revert h; decide)
  obtain ⟨h1, h2, h3, h4, h5⟩ := hne
  rw [tkindOf, if_neg h1, if_neg h2, if_neg h3, if_neg h4, if_neg h5]

/-! ### The statements -/

/-- Settles O54: `u` is the state behind EXT.SUBID and EXT.EXCLUDE. An excluded message's record is the one it holds; any
other's is the one the rest of the steps leave from it (`execAll_decodeSteps`), with the sequence (`outBody_eq`). -/
theorem decodeRunsItsSteps : Obligations.DecodeRunsItsSteps := by
  intro s ch f hlen
  refine ⟨_, execAll_extSubid_extExclude f.payload s, ?_⟩
  rcases decodeOut_cases s.cfg ch f with ⟨hsup, hout⟩ | ⟨hsup, hout⟩
  · refine ⟨fun _ => ?_, fun hnot => Bool.noConfusion (hsup.symm.trans hnot)⟩
    rw [exec_extDecode, hout]
    rfl
  · refine ⟨fun hyes => Bool.noConfusion (hyes.symm.trans hsup), fun _ => ?_⟩
    refine ⟨_, execAll_decodeSteps ch hlen _, ?_⟩
    rw [exec_extDecode, hout, outBody_eq]
    rfl

/-- Settles O48: each operation writes the one field, at `dirOf` of the channel and at `tkindOf` of the type byte, which is
unknown outside 1 to 5 (`tkindOf_eq_typeUnknown`). -/
theorem directionAndType : Obligations.DirectionAndType := by
  intro s dir kind
  have hdir (ch : Chan) : exec (.extDir ch) s = dir (dirOf ch) := exec_extDir ch s
  have hkind (t : Byte) : exec (.extType t) s = kind (tkindOf t) := exec_extType t s
  refine ⟨hdir .ch0, hdir .ch1, hkind 1, hkind 2, hkind 3, hkind 4, hkind 5, fun t ht => ?_⟩
  rw [hkind, tkindOf_eq_typeUnknown ht]

end Sys2Proof.Machine
end

section
/-! PROOFS. The host's records (log 2): the decoder reads back what the encoder writes and accepts nothing else, each record
parser once; what a step does with a record; and the statements settled with them. -/

namespace Sys2Proof.Machine

open Sys2Proof.Laws

/-! ### The decoder reads back what the encoder writes -/

/-- Every row's parser reads its operand bytes back: the family ParseOperands, put together. -/
theorem parseRow_operandBytes (i : Instr) : ParseOperands.Statement i := by
  cases i with
  | crcInit => exact ParseOperands.crcInit
  | crcStep b => exact ParseOperands.crcStep b
  | crcOut => exact ParseOperands.crcOut
  | crc16 bytes => exact ParseOperands.crc16 bytes
  | frmAdd ch chunk => exact ParseOperands.frmAdd ch chunk
  | frmEvict ch => exact ParseOperands.frmEvict ch
  | frmAppend ch chunk => exact ParseOperands.frmAppend ch chunk
  | frmLoop ch => exact ParseOperands.frmLoop ch
  | frmSearch ch => exact ParseOperands.frmSearch ch
  | frmWaitNocand ch => exact ParseOperands.frmWaitNocand ch
  | frmGarbage ch => exact ParseOperands.frmGarbage ch
  | frmXmWait ch => exact ParseOperands.frmXmWait ch
  | frmXm128 ch => exact ParseOperands.frmXm128 ch
  | frmXm1k ch => exact ParseOperands.frmXm1k ch
  | frmStdWait8 ch => exact ParseOperands.frmStdWait8 ch
  | frmStdBadpar ch => exact ParseOperands.frmStdBadpar ch
  | frmStdWaitlen ch => exact ParseOperands.frmStdWaitlen ch
  | frmStdBadcrc ch => exact ParseOperands.frmStdBadcrc ch
  | frmStdEmit ch => exact ParseOperands.frmStdEmit ch
  | frmTake ch => exact ParseOperands.frmTake ch
  | extDecode ch frame => exact ParseOperands.extDecode ch frame
  | extSubid p => exact ParseOperands.extSubid p
  | extExclude => exact ParseOperands.extExclude
  | extValreq t n => exact ParseOperands.extValreq t n
  | extTag p => exact ParseOperands.extTag p
  | extUint8 sub v => exact ParseOperands.extUint8 sub v
  | extUint16 sub v => exact ParseOperands.extUint16 sub v
  | extUint32 sub v => exact ParseOperands.extUint32 sub v
  | extVoid sub v => exact ParseOperands.extVoid sub v
  | extBool sub v => exact ParseOperands.extBool sub v
  | extBlob1 sub v => exact ParseOperands.extBlob1 sub v
  | extBlob2 sub v => exact ParseOperands.extBlob2 sub v
  | extRaw sub g v => exact ParseOperands.extRaw sub g v
  | extTrunc p => exact ParseOperands.extTrunc p
  | extDir ch => exact ParseOperands.extDir ch
  | extType t => exact ParseOperands.extType t
  | extAck t p => exact ParseOperands.extAck t p
  | extTrack t => exact ParseOperands.extTrack t
  | extZoneMotion => exact ParseOperands.extZoneMotion
  | extZonePresence => exact ParseOperands.extZonePresence
  | extBitmap => exact ParseOperands.extBitmap
  | extBitmapZone => exact ParseOperands.extBitmapZone
  | extZoneEnum => exact ParseOperands.extZoneEnum
  | extLrrev => exact ParseOperands.extLrrev
  | extMount => exact ParseOperands.extMount
  | reset => exact ParseOperands.reset

/-- Settles O1: the row's parser gives the operation (`parseRow_operandBytes`), and the last check is the hypothesis. -/
theorem decodeReadsEncoded : Obligations.DecodeReadsEncoded := by
  intro w i hwf
  simp [decode, encode, parseRow_operandBytes i w hwf, hwf]

/-! ### What each record parser accepts -/

theorem parseBare_eq_ok {args : List Byte} {i j : Instr} (h : parseBare args i = .ok j) : args = [] ∧ j = i := by
  cases args with
  | nil => exact ⟨rfl, (Except.ok.inj h).symm⟩
  | cons b bs => cases h

theorem chanOf_eq_some {b : Byte} {ch : Chan} (h : chanOf b = some ch) : b = chanByte ch := by
  unfold chanOf at h
  split_ifs at h with h0 h1
  · cases h; exact h0
  · cases h; exact h1

theorem parseChan_eq_ok {args : List Byte} {k : Chan → List Byte → Except DecodeError Instr} {j : Instr}
    (h : parseChan args k = .ok j) : ∃ ch rest, args = chanByte ch :: rest ∧ k ch rest = .ok j := by
  cases args with
  | nil => cases h
  | cons c rest =>
    rw [parseChan] at h
    split at h
    · rename_i ch hch
      exact ⟨ch, rest, by rw [chanOf_eq_some hch], h⟩
    · cases h

theorem parseChanOnly_eq_ok {args : List Byte} {k : Chan → Instr} {j : Instr} (h : parseChanOnly args k = .ok j) :
    ∃ ch, args = [chanByte ch] ∧ j = k ch := by
  obtain ⟨ch, rest, rfl, hrest⟩ := parseChan_eq_ok h
  obtain ⟨rfl, rfl⟩ := parseBare_eq_ok hrest
  exact ⟨ch, rfl, rfl⟩

theorem be16Bytes_be16 (a b : Byte) : be16Bytes (be16 a b) = [a, b] := by
  have hhi : (be16 a b).extractLsb' 8 8 = a := BitVec.extractLsb'_append_eq_left
  have hlo : (be16 a b).extractLsb' 0 8 = b := BitVec.extractLsb'_append_eq_right
  rw [be16Bytes, hhi, hlo]

theorem parseTagged_eq_ok {tag : Byte} {args : List Byte} {k : Half → List Byte → Instr} {j : Instr}
    (h : parseTagged tag args k = .ok j) : ∃ sub v, args = payloadBytes sub tag v ∧ j = k sub v := by
  match args, h with
  | i1 :: i0 :: g :: v, h =>
    rw [parseTagged] at h
    split_ifs at h with hg
    exact ⟨be16 i1 i0, v, by rw [payloadBytes, be16Bytes_be16, hg]; rfl, (Except.ok.inj h).symm⟩

/-- A frame record's length bytes are those of the payload it is cut at. -/
theorem parseFrame_eq_ok {args : List Byte} {k : Frame → Instr} {j : Instr} (h : parseFrame args k = .ok j) :
    ∃ f, args = f.sequence :: f.type :: (be16Bytes (BitVec.ofNat 16 f.payload.length) ++ f.payload ++ f.raw) ∧
      j = k f := by
  match args, h with
  | sq :: t :: l1 :: l0 :: rest, h =>
    simp only [parseFrame] at h
    split_ifs at h with hlen
    refine ⟨_, ?_, (Except.ok.inj h).symm⟩
    have hn : (rest.take (be16 l1 l0).toNat).length = (be16 l1 l0).toNat := by
      rw [List.length_take]; omega
    simp [hn, be16Bytes_be16]

/-- A record whose row parses is that operation's: the row number is its opcode, the rest its operand bytes. -/
theorem parseRow_eq_ok {w : WireParams} {op : Byte} {args : List Byte} {i : Instr} (h : parseRow w op args = .ok i) :
    op = opcode i ∧ args = operandBytes w i := by
  have hop (n : Byte) (hn : op.toNat = n.toNat) : op = n := BitVec.eq_of_toNat_eq hn
  unfold parseRow at h
  split at h
  case h_1 | h_3 | h_23 | h_39 | h_40 | h_41 | h_42 | h_43 | h_44 | h_45 | h_46 =>
    obtain ⟨rfl, rfl⟩ := parseBare_eq_ok h
    exact ⟨hop _ ‹_›, rfl⟩
  case h_6 | h_8 | h_9 | h_10 | h_11 | h_12 | h_13 | h_14 | h_15 | h_16 | h_17 | h_18 | h_19 | h_20 | h_35 =>
    obtain ⟨ch, rfl, rfl⟩ := parseChanOnly_eq_ok h
    exact ⟨hop _ ‹_›, rfl⟩
  case h_26 | h_27 | h_28 | h_29 | h_30 | h_31 | h_32 =>
    obtain ⟨sub, v, rfl, rfl⟩ := parseTagged_eq_ok h
    exact ⟨hop _ ‹_›, rfl⟩
  case h_4 | h_22 | h_25 | h_34 =>
    cases h
    exact ⟨hop _ ‹_›, rfl⟩
  case h_5 | h_7 =>
    obtain ⟨ch, rest, rfl, hrest⟩ := parseChan_eq_ok h
    cases hrest
    exact ⟨hop _ ‹_›, rfl⟩
  case h_21 =>
    obtain ⟨ch, rest, rfl, hrest⟩ := parseChan_eq_ok h
    obtain ⟨f, rfl, rfl⟩ := parseFrame_eq_ok hrest
    exact ⟨hop _ ‹_›, rfl⟩
  case h_2 | h_36 | h_37 | h_38 =>
    split at h
    · cases h
      exact ⟨hop _ ‹_›, rfl⟩
    · cases h
  case h_24 =>
    split at h
    · cases h
      exact ⟨hop _ ‹_›, by rw [operandBytes, be16Bytes_be16]⟩
    · cases h
  case h_33 =>
    split at h
    · cases h
      exact ⟨hop _ ‹_›, by rw [operandBytes, payloadBytes, be16Bytes_be16]; rfl⟩
    · cases h
  case h_47 => cases h

/-- Settles O2: an accepted record's row parsed and its operation is well-formed (`decode_ok`), and the row parses that
operation's bytes alone (`parseRow_eq_ok`). -/
theorem decodedRecordIsEncoded : Obligations.DecodedRecordIsEncoded := by
  intro w r i h
  obtain ⟨op, args, rfl, hrow, hwf⟩ := decode_ok h
  obtain ⟨rfl, rfl⟩ := parseRow_eq_ok hrow
  exact ⟨rfl, hwf⟩

/-! ### A step -/

theorem step_of_host_nil {s : State} (h : s.host = []) : step s = .next s := by
  rw [step, h]

theorem step_of_decode_ok {s : State} {r : List Byte} {rest : List (List Byte)} {i : Instr} (hhost : s.host = r :: rest)
    (h : decode s.cfg.wire r = .ok i) : step s = exec i { s with host := rest } := by
  simp only [step, hhost, h]

theorem step_of_decode_error {s : State} {r : List Byte} {rest : List (List Byte)} {e : DecodeError}
    (hhost : s.host = r :: rest) (h : decode s.cfg.wire r = .error e) : step s = .refused (.badRecord e) := by
  simp only [step, hhost, h]

/-- Settles O3: `step` on a pending record that decodes. -/
theorem stepRunsDecodedRecord : Obligations.StepRunsDecodedRecord :=
  fun _ _ _ _ hhost h => step_of_decode_ok hhost h

/-- A channel byte other than 0 and 1 names no framer, and the parser says so before it looks at what follows (U6). -/
theorem parseChan_badChannel {c : Byte} (hc : 1 < c.toNat) (args : List Byte)
    (k : Chan → List Byte → Except DecodeError Instr) : parseChan (c :: args) k = .error (.badChannel c) := by
  have h0 : c ≠ 0 := by rintro rfl; simp at hc
  have h1 : c ≠ 1 := by rintro rfl; simp at hc
  rw [parseChan, chanOf, if_neg h0, if_neg h1]

/-- Rows 4 to 20 and 34 are those whose first operand byte is a channel. -/
theorem parseRow_badChannel (w : WireParams) {op c : Byte} (hop : (4 ≤ op.toNat ∧ op.toNat ≤ 20) ∨ op.toNat = 34)
    (hc : 1 < c.toNat) (args : List Byte) : parseRow w op (c :: args) = .error (.badChannel c) := by
  have hbad := parseChan_badChannel hc args
  unfold parseRow
  rcases hop with ⟨hlo, hhi⟩ | h34
  · generalize op.toNat = n at hlo hhi
    interval_cases n <;> exact hbad _
  · rw [h34]
    exact hbad _

/-- Settles O4: a record whose row fails to parse is refused with the row's reason. -/
theorem stepIdlesOrRefusesRecord : Obligations.StepIdlesOrRefusesRecord := by
  refine ⟨fun s hhost => step_of_host_nil hhost, fun s r rest e hhost he => step_of_decode_error hhost he, ?_⟩
  intro s op c args rest hop hc hhost
  exact step_of_decode_error hhost (by rw [decode, parseRow_badChannel _ hop hc])

/-- Settles O5: eleven closed words, read by evaluation. -/
theorem specWordsDecode : Obligations.SpecWordsDecode := by
  unfold Obligations.SpecWordsDecode
  decide +kernel

end Sys2Proof.Machine
end

section
/-! PROOFS. The framer of one channel (10_state.md section 1, 41_framer.md): every operation of FRM is the replacement of one
framer and a number of finished CRC16 computations, both decided by that framer and the parameters; what each leaf does to
the framer (R143 to R156); and the statements about a single operation or iteration settled with them. -/

namespace Sys2Proof.Machine

/-! ### Replacing a framer, with `n` CRC16 computations run on the way -/

/-- One framer replaced and the accumulator freed `n` times (R124): the form of everything FRM does to the state. -/
def State.install (s : State) (ch : Chan) (f : Frm) (n : Nat) : State := Nat.repeat State.crcDone n (s.setFrm ch f)

theorem State.install_zero (s : State) (ch : Chan) (f : Frm) : s.install ch f 0 = s.setFrm ch f := rfl

theorem State.install_succ (s : State) (ch : Chan) (f : Frm) (n : Nat) :
    s.install ch f (n + 1) = (s.install ch f n).crcDone := rfl

@[simp] theorem State.install_frm (s : State) (ch : Chan) (f : Frm) (n : Nat) : (s.install ch f n).frm ch = f := by
  induction n with
  | zero => exact s.setFrm_frm ch f
  | succ n ih => rw [install_succ, crcDone_frm, ih]

theorem State.install_frm_of_ne (s : State) (f : Frm) (n : Nat) {ch ch' : Chan} (h : ch' ≠ ch) :
    (s.install ch f n).frm ch' = s.frm ch' := by
  induction n with
  | zero => exact s.setFrm_frm_of_ne f h
  | succ n ih => rw [install_succ, crcDone_frm, ih]

@[simp] theorem State.install_cfg (s : State) (ch : Chan) (f : Frm) (n : Nat) : (s.install ch f n).cfg = s.cfg := by
  induction n with
  | zero => exact s.setFrm_cfg ch f
  | succ n ih => rw [install_succ, crcDone_cfg, ih]

@[simp] theorem State.install_ext (s : State) (ch : Chan) (f : Frm) (n : Nat) : (s.install ch f n).ext = s.ext := by
  induction n with
  | zero => exact s.setFrm_ext ch f
  | succ n ih => rw [install_succ, crcDone_ext, ih]

@[simp] theorem State.install_host (s : State) (ch : Chan) (f : Frm) (n : Nat) : (s.install ch f n).host = s.host := by
  induction n with
  | zero => exact s.setFrm_host ch f
  | succ n ih => rw [install_succ, crcDone_host, ih]

theorem State.install_setFrm (s : State) (ch : Chan) (f g : Frm) (n : Nat) :
    (s.install ch f n).setFrm ch g = s.install ch g n := by
  induction n with
  | zero => exact s.setFrm_setFrm ch f g
  | succ n ih => rw [install_succ, ← crcDone_setFrm, ih, install_succ]

theorem State.install_install (s : State) (ch : Chan) (f g : Frm) (n m : Nat) :
    (s.install ch f n).install ch g m = s.install ch g (n + m) := by
  induction m with
  | zero => exact s.install_setFrm ch f g n
  | succ m ih => rw [install_succ, ih, ← Nat.add_assoc, install_succ]

theorem State.install_self (s : State) (ch : Chan) : s.install ch (s.frm ch) 0 = s := s.setFrm_self ch

theorem otherChan_ne (ch : Chan) : otherChan ch ≠ ch := by
  cases ch <;> decide

/-! ### What a leaf does to its framer -/

/-- A leaf's effect on its framer (R145 to R156); a wait has none. -/
def Frm.act (f : Frm) (ch : Chan) : LoopLeaf → Frm
  | .garbage i => f.raise ch i .garbageBeforeHeader
  | .xm128 => f.xmBlock ch .n128
  | .xm1k => f.xmBlock ch .n1024
  | .stdBadpar => f.raise ch Config.stdDiscard .badHeaderParity
  | .stdBadcrc => f.raise ch Config.stdDiscard .badCrc
  | .stdEmit len => f.push len
  | .waitNocand | .xmWait | .stdWait8 | .stdWaitlen => f

/-- The CRC16 computations a leaf finishes: the two that test the trailer run one (R124, R153, R154). -/
def leafCrcs : LoopLeaf → Nat
  | .stdBadcrc | .stdEmit _ => 1
  | .waitNocand | .garbage _ | .xmWait | .xm128 | .xm1k | .stdWait8 | .stdBadpar | .stdWaitlen => 0

/-- The state behind the selected leaf. -/
def State.runLeaf (s : State) (ch : Chan) : State := s.install ch ((s.frm ch).act ch (s.leaf ch)) (leafCrcs (s.leaf ch))

theorem runLeaf_of_isWait {s : State} {ch : Chan} (h : isWait (s.leaf ch) = true) : s.runLeaf ch = s := by
  unfold State.runLeaf
  cases hleaf : s.leaf ch with
  | waitNocand | xmWait | stdWait8 | stdWaitlen => exact s.install_self ch
  | garbage _ | xm128 | xm1k | stdBadpar | stdBadcrc | stdEmit _ => rw [hleaf] at h; cases h

theorem loopStep_of_not_isWait {s : State} {ch : Chan} (h : isWait (s.leaf ch) = false) :
    s.loopStep ch = some (s.runLeaf ch) := by
  unfold State.loopStep State.runLeaf
  cases hleaf : s.leaf ch with
  | waitNocand | xmWait | stdWait8 | stdWaitlen => rw [hleaf] at h; cases h
  | garbage _ | xm128 | xm1k | stdBadpar | stdBadcrc | stdEmit _ => rfl

/-- Everything one iteration can do: the selected leaf, which is no wait. -/
theorem loopStep_eq_some {s t : State} {ch : Chan} (h : s.loopStep ch = some t) :
    isWait (s.leaf ch) = false ∧ t = s.runLeaf ch := by
  cases hwait : isWait (s.leaf ch) with
  | true => rw [(loopStep_none_iff s ch).2 hwait] at h; cases h
  | false => exact ⟨rfl, Option.some.inj (h.symm.trans (loopStep_of_not_isWait hwait))⟩

theorem loop_of_not_isWait {s : State} {ch : Chan} (h : isWait (s.leaf ch) = false) :
    s.loop ch = (s.runLeaf ch).loop ch := by
  rw [loop_unfold, loopStep_of_not_isWait h]

/-! ### The loop's operations presented by themselves (log 1) -/

/-- The mnemonic of a leaf's row. -/
def leafName : LoopLeaf → String
  | .waitNocand => "FRM.WAIT.NOCAND"
  | .garbage _ => "FRM.GARBAGE"
  | .xmWait => "FRM.XM.WAIT"
  | .xm128 => "FRM.XM128"
  | .xm1k => "FRM.XM1K"
  | .stdWait8 => "FRM.STD.WAIT8"
  | .stdBadpar => "FRM.STD.BADPAR"
  | .stdWaitlen => "FRM.STD.WAITLEN"
  | .stdBadcrc => "FRM.STD.BADCRC"
  | .stdEmit _ => "FRM.STD.EMIT"

/-- The operation of the selected leaf does what the leaf does. -/
theorem exec_selected (s : State) (ch : Chan) :
    exec (leafInstr ch (s.leaf ch)) s = .next ((s.runLeaf ch).returning .nothing) := by
  cases hleaf : s.leaf ch with
  | waitNocand | xmWait | stdWait8 | stdWaitlen =>
    have hwait : isWait (s.leaf ch) = true := by rw [hleaf]; rfl
    rw [← hleaf, exec_leafInstr_of_isWait rfl hwait, runLeaf_of_isWait hwait]
  | garbage i => rw [leafInstr, exec_frmGarbage hleaf, State.runLeaf, hleaf]; rfl
  | stdBadpar => rw [leafInstr, exec_frmStdBadpar hleaf, State.runLeaf, hleaf]; rfl
  | stdBadcrc => rw [leafInstr, exec_frmStdBadcrc hleaf, State.runLeaf, hleaf]; rfl
  | stdEmit len => rw [leafInstr, exec_frmStdEmit hleaf, State.runLeaf, hleaf]; rfl
  | xm128 | xm1k =>
    rw [State.runLeaf, hleaf]
    exact if_pos hleaf

/-- An operation that is not the selected leaf's is refused by its own mnemonic. -/
theorem exec_unselected {s : State} {ch : Chan} {leaf : LoopLeaf} (h : leafInstr ch leaf ≠ leafInstr ch (s.leaf ch)) :
    exec (leafInstr ch leaf) s = .refused (.notSelected (leafName leaf)) := by
  have hne : s.leaf ch ≠ leaf := fun heq => h (by rw [heq])
  cases leaf with
  | waitNocand | xmWait | xm128 | xm1k | stdWait8 | stdBadpar | stdWaitlen | stdBadcrc => exact if_neg hne
  | garbage i =>
    change execFrmGarbage ch s = _
    unfold execFrmGarbage
    split
    · exact absurd (by rw [‹s.leaf ch = _›]; rfl) h
    · rfl
  | stdEmit len =>
    change execFrmStdEmit ch s = _
    unfold execFrmStdEmit
    split
    · exact absurd (by rw [‹s.leaf ch = _›]; rfl) h
    · rfl

/-! ### The host's transactions -/

theorem exec_frmAdd (ch : Chan) (chunk : List Byte) (s : State) :
    exec (.frmAdd ch chunk) s = .next ((s.add ch chunk).returning .nothing) := rfl

theorem exec_frmLoop (ch : Chan) (s : State) : exec (.frmLoop ch) s = .next ((s.loop ch).returning .nothing) := rfl

theorem overBound_iff (s : State) (ch : Chan) : s.overBound ch = true ↔ 131072 < (s.frm ch).buf.length := by
  simp [State.overBound]

theorem exec_frmEvict_of_over {s : State} {ch : Chan} (h : 131072 < (s.frm ch).buf.length) :
    exec (.frmEvict ch) s = .next ((s.evict ch).returning .nothing) :=
  if_pos ((overBound_iff s ch).2 h)

theorem exec_frmEvict_of_le {s : State} {ch : Chan} (h : (s.frm ch).buf.length ≤ 131072) :
    exec (.frmEvict ch) s = .refused (.notSelected "FRM.EVICT") :=
  if_neg (mt (overBound_iff s ch).1 (Nat.not_lt.2 h))

/-- The framer FRM.ADD hands to FRM.LOOP: evicted if over its bound, then with the chunk appended (R140). -/
def Frm.load (f : Frm) (ch : Chan) (chunk : List Byte) : Frm :=
  Frm.append (if 131072 < f.buf.length then f.evict ch else f) chunk

theorem add_eq (s : State) (ch : Chan) (chunk : List Byte) :
    s.add ch chunk = (s.setFrm ch ((s.frm ch).load ch chunk)).loop ch := by
  unfold State.add Frm.load
  by_cases hover : 131072 < (s.frm ch).buf.length
  · simp [(overBound_iff s ch).2 hover, if_pos hover, State.append_def, State.evict_def]
  · have hnot : s.overBound ch = false := by simpa [State.overBound] using hover
    simp [hnot, if_neg hover, State.append_def]

/-- The operations that act on a framer, the loop's by their leaf. -/
inductive OnFramer (ch : Chan) : Instr → Prop
  | add (chunk : List Byte) : OnFramer ch (.frmAdd ch chunk)
  | evict : OnFramer ch (.frmEvict ch)
  | append (chunk : List Byte) : OnFramer ch (.frmAppend ch chunk)
  | loop : OnFramer ch (.frmLoop ch)
  | search : OnFramer ch (.frmSearch ch)
  | take : OnFramer ch (.frmTake ch)
  | leaf (l : LoopLeaf) : OnFramer ch (leafInstr ch l)

theorem onFramer_of_instrChan {i : Instr} {ch : Chan} (h : instrChan i = some ch) : OnFramer ch i := by
  cases i with
  | frmAdd c chunk => cases h; exact .add chunk
  | frmEvict c => cases h; exact .evict
  | frmAppend c chunk => cases h; exact .append chunk
  | frmLoop c => cases h; exact .loop
  | frmSearch c => cases h; exact .search
  | frmTake c => cases h; exact .take
  | frmWaitNocand c => cases h; exact .leaf .waitNocand
  | frmGarbage c => cases h; exact .leaf (.garbage 0)
  | frmXmWait c => cases h; exact .leaf .xmWait
  | frmXm128 c => cases h; exact .leaf .xm128
  | frmXm1k c => cases h; exact .leaf .xm1k
  | frmStdWait8 c => cases h; exact .leaf .stdWait8
  | frmStdBadpar c => cases h; exact .leaf .stdBadpar
  | frmStdWaitlen c => cases h; exact .leaf .stdWaitlen
  | frmStdBadcrc c => cases h; exact .leaf .stdBadcrc
  | frmStdEmit c => cases h; exact .leaf (.stdEmit 0)
  | _ => cases h

/-! ### The loop keeps what every leaf keeps -/

@[simp] theorem Frm.act_rx (f : Frm) (ch : Chan) (leaf : LoopLeaf) : (f.act ch leaf).rx = f.rx := by
  cases leaf <;> rfl

theorem Frm.act_buf (f : Frm) (ch : Chan) (leaf : LoopLeaf) : (f.act ch leaf).buf = f.buf.drop (leafBytes leaf) := by
  cases leaf with
  | stdEmit len => rw [act, push_buf, leafBytes, config_stdHdr, config_stdTrl]; congr 1; omega
  | _ => rfl

theorem runLeaf_frm (s : State) (ch : Chan) : (s.runLeaf ch).frm ch = (s.frm ch).act ch (s.leaf ch) :=
  s.install_frm ch _ _

/-- What every selected leaf keeps of the framer, the loop keeps. -/
theorem loop_frm_induction {P : Frm → Prop} {s : State} {ch : Chan}
    (hact : ∀ f, P f → isWait (selectLeaf s.cfg f.buf) = false → P (f.act ch (selectLeaf s.cfg f.buf)))
    (hs : P (s.frm ch)) : P ((s.loop ch).frm ch) := by
  refine (loop_induction (P := fun u => u.cfg = s.cfg ∧ P (u.frm ch)) ?_ ⟨rfl, hs⟩).2
  rintro u t ⟨hcfg, hu⟩ hstep
  obtain ⟨hwait, rfl⟩ := loopStep_eq_some hstep
  refine ⟨(u.install_cfg ch _ _).trans hcfg, ?_⟩
  rw [State.leaf, hcfg] at hwait
  rw [runLeaf_frm, State.leaf, hcfg]
  exact hact _ hu hwait

theorem loop_rx (s : State) (ch : Chan) : ((s.loop ch).frm ch).rx = (s.frm ch).rx :=
  loop_frm_induction (P := fun f => f.rx = (s.frm ch).rx) (fun f hf _ => (f.act_rx ch _).trans hf) rfl

theorem loop_buf_suffix (s : State) (ch : Chan) : ((s.loop ch).frm ch).buf <:+ (s.frm ch).buf := by
  refine loop_frm_induction (P := fun f => f.buf <:+ (s.frm ch).buf) (fun f hf _ => ?_) List.suffix_rfl
  rw [Frm.act_buf]
  exact (List.drop_suffix _ _).trans hf

/-! ### The loop's and every operation's answer depends on the framer and the parameters alone (R61) -/

/-- A relation on framers that FRM cannot see through: related framers hold the same bytes and frames, and every change FRM
makes to both leaves them related. -/
structure FrmCong (R : Frm → Frm → Prop) : Prop where
  buf {f g : Frm} : R f g → f.buf = g.buf
  ready {f g : Frm} : R f g → f.ready = g.ready
  act {f g : Frm} (ch : Chan) (leaf : LoopLeaf) : R f g → R (f.act ch leaf) (g.act ch leaf)
  append {f g : Frm} (chunk : List Byte) : R f g → R (f.append chunk) (g.append chunk)
  evict {f g : Frm} (ch : Chan) : R f g → R (f.evict ch) (g.evict ch)
  take {f g : Frm} : R f g → R { f with ready := [] } { g with ready := [] }

theorem frmCong_eq : FrmCong Eq where
  buf h := h ▸ rfl
  ready h := h ▸ rfl
  act _ _ h := h ▸ rfl
  append _ h := h ▸ rfl
  evict _ h := h ▸ rfl
  take h := h ▸ rfl

theorem FrmCong.load {R : Frm → Frm → Prop} (hR : FrmCong R) {f g : Frm} (ch : Chan) (chunk : List Byte) (h : R f g) :
    R (f.load ch chunk) (g.load ch chunk) := by
  unfold Frm.load
  rw [hR.buf h]
  split
  · exact hR.append chunk (hR.evict ch h)
  · exact hR.append chunk h

theorem loopFor_cong {R : Frm → Frm → Prop} (hR : FrmCong R) (ch : Chan) (k : Nat) {s s' : State} (hcfg : s.cfg = s'.cfg)
    (h : R (s.frm ch) (s'.frm ch)) :
    ∃ f g n, R f g ∧ s.loopFor k ch = s.install ch f n ∧ s'.loopFor k ch = s'.install ch g n := by
  induction k generalizing s s' with
  | zero => exact ⟨_, _, 0, h, (s.install_self ch).symm, (s'.install_self ch).symm⟩
  | succ k ih =>
    have hleaf : s.leaf ch = s'.leaf ch := by rw [State.leaf, State.leaf, hcfg, hR.buf h]
    cases hwait : isWait (s.leaf ch) with
    | true =>
      refine ⟨_, _, 0, h, ?_, ?_⟩
      · rw [State.loopFor, (loopStep_none_iff s ch).2 hwait, s.install_self]
      · rw [State.loopFor, (loopStep_none_iff s' ch).2 (hleaf ▸ hwait), s'.install_self]
    | false =>
      have hrun : R ((s.runLeaf ch).frm ch) ((s'.runLeaf ch).frm ch) := by
        rw [runLeaf_frm, runLeaf_frm, ← hleaf]
        exact hR.act ch _ h
      have hcfg' : (s.runLeaf ch).cfg = (s'.runLeaf ch).cfg := by
        rw [State.runLeaf, State.runLeaf, State.install_cfg, State.install_cfg, hcfg]
      obtain ⟨f, g, n, hfg, hs, hs'⟩ := ih hcfg' hrun
      refine ⟨f, g, leafCrcs (s.leaf ch) + n, hfg, ?_, ?_⟩
      · simp only [State.loopFor, loopStep_of_not_isWait hwait, hs]
        exact s.install_install ch _ f _ n
      · simp only [State.loopFor, loopStep_of_not_isWait (hleaf ▸ hwait), hs', hleaf]
        exact s'.install_install ch _ g _ n

theorem loop_cong {R : Frm → Frm → Prop} (hR : FrmCong R) (ch : Chan) {s s' : State} (hcfg : s.cfg = s'.cfg)
    (h : R (s.frm ch) (s'.frm ch)) :
    ∃ f g n, R f g ∧ s.loop ch = s.install ch f n ∧ s'.loop ch = s'.install ch g n := by
  rw [State.loop, State.loop, ← hR.buf h]
  exact loopFor_cong hR ch _ hcfg h

theorem add_cong {R : Frm → Frm → Prop} (hR : FrmCong R) (ch : Chan) (chunk : List Byte) {s s' : State}
    (hcfg : s.cfg = s'.cfg) (h : R (s.frm ch) (s'.frm ch)) :
    ∃ f g n, R f g ∧ s.add ch chunk = s.install ch f n ∧ s'.add ch chunk = s'.install ch g n := by
  have hload : R ((s.setFrm ch ((s.frm ch).load ch chunk)).frm ch) ((s'.setFrm ch ((s'.frm ch).load ch chunk)).frm ch) := by
    rw [State.setFrm_frm, State.setFrm_frm]
    exact hR.load ch chunk h
  obtain ⟨f, g, n, hfg, hs, hs'⟩ := loop_cong hR ch (by rw [State.setFrm_cfg, State.setFrm_cfg, hcfg]) hload
  refine ⟨f, g, n, hfg, ?_, ?_⟩
  · rw [add_eq, hs, ← State.install_zero, State.install_install, Nat.zero_add]
  · rw [add_eq, hs', ← State.install_zero, State.install_install, Nat.zero_add]

/-- Two outcomes that replace one framer by related ones and return the same, or are the same refusal. -/
def AnswersAlike (R : Frm → Frm → Prop) (ch : Chan) (s s' : State) (o o' : Host.Outcome State Fault Refusal) : Prop :=
  (∃ f g n r, R f g ∧ o = .next ((s.install ch f n).returning r) ∧ o' = .next ((s'.install ch g n).returning r)) ∨
  ∃ r, o = .refused r ∧ o' = .refused r

/-- An operation on a framer answers alike on related framers, whatever else the two states hold. -/
theorem exec_cong {R : Frm → Frm → Prop} (hR : FrmCong R) {i : Instr} {ch : Chan} (hi : instrChan i = some ch)
    {s s' : State} (hcfg : s.cfg = s'.cfg) (h : R (s.frm ch) (s'.frm ch)) :
    AnswersAlike R ch s s' (exec i s) (exec i s') := by
  have hleaf : s.leaf ch = s'.leaf ch := by rw [State.leaf, State.leaf, hcfg, hR.buf h]
  cases onFramer_of_instrChan hi with
  | add chunk =>
    obtain ⟨f, g, n, hfg, hs, hs'⟩ := add_cong hR ch chunk hcfg h
    exact .inl ⟨f, g, n, .nothing, hfg, by rw [exec_frmAdd, hs], by rw [exec_frmAdd, hs']⟩
  | evict =>
    by_cases hover : 131072 < (s.frm ch).buf.length
    · exact .inl ⟨_, _, 0, .nothing, hR.evict ch h, exec_frmEvict_of_over hover,
        exec_frmEvict_of_over (hR.buf h ▸ hover)⟩
    · exact .inr ⟨_, exec_frmEvict_of_le (Nat.not_lt.1 hover), exec_frmEvict_of_le (hR.buf h ▸ Nat.not_lt.1 hover)⟩
  | append chunk => exact .inl ⟨_, _, 0, .nothing, hR.append chunk h, exec_frmAppend ch chunk s, exec_frmAppend ch chunk s'⟩
  | loop =>
    obtain ⟨f, g, n, hfg, hs, hs'⟩ := loop_cong hR ch hcfg h
    exact .inl ⟨f, g, n, .nothing, hfg, by rw [exec_frmLoop, hs], by rw [exec_frmLoop, hs']⟩
  | search =>
    refine .inl ⟨_, _, 0, .cand (search s.cfg.wire (s.frm ch).buf), h, ?_, ?_⟩
    · rw [exec_frmSearch, s.install_self]
    · rw [exec_frmSearch, s'.install_self, hcfg, hR.buf h]
  | take =>
    refine .inl ⟨_, _, 0, .frames (s.frm ch).ready, hR.take h, exec_frmTake ch s, ?_⟩
    rw [exec_frmTake, State.install_zero, hR.ready h]
  | leaf l =>
    by_cases hsel : leafInstr ch l = leafInstr ch (s.leaf ch)
    · refine .inl ⟨_, _, leafCrcs (s.leaf ch), .nothing, hR.act ch (s.leaf ch) h, ?_, ?_⟩
      · rw [hsel, exec_selected, State.runLeaf]
      · rw [hsel, hleaf, exec_selected, State.runLeaf]
    · exact .inr ⟨_, exec_unselected hsel, exec_unselected (hleaf ▸ hsel)⟩

/-- Everything an operation on a framer can do to the state, if it completes. -/
theorem exec_eq_install {i : Instr} {ch : Chan} (hi : instrChan i = some ch) {s t : State} (h : exec i s = .next t) :
    ∃ f n r, t = (s.install ch f n).returning r := by
  rcases exec_cong frmCong_eq hi (s := s) rfl rfl with ⟨f, -, n, r, -, hs, -⟩ | ⟨r, hs, -⟩
  · rw [hs] at h
    exact ⟨f, n, r, (Host.Outcome.next.inj h).symm⟩
  · rw [hs] at h
    cases h

theorem loop_eq_install (s : State) (ch : Chan) : ∃ f n, s.loop ch = s.install ch f n := by
  obtain ⟨f, -, n, -, hs, -⟩ := loop_cong frmCong_eq ch (s := s) rfl rfl
  exact ⟨f, n, hs⟩

theorem add_eq_install (s : State) (ch : Chan) (chunk : List Byte) : ∃ f n, s.add ch chunk = s.install ch f n := by
  obtain ⟨f, -, n, -, hs, -⟩ := add_cong frmCong_eq ch chunk (s := s) rfl rfl
  exact ⟨f, n, hs⟩

end Sys2Proof.Machine
end

section
/-! PROOFS. The framer's transactions and iterations (41_framer.md): the statements about FRM.EVICT, FRM.ADD, FRM.LOOP, one
iteration, the two checks of a header and the XMODEM blocks, and the properties of section 6 of 41_framer.md. -/

namespace Sys2Proof.Machine

/-! ### One iteration, one operation -/

/-- Settles O21: at a wait the leaf's effect is none (`runLeaf_of_isWait`); elsewhere the iteration and the operation are both
`runLeaf`. -/
theorem iterationIsSelectedOperation : Obligations.IterationIsSelectedOperation := by
  intro s ch
  have hexec := exec_selected s ch
  cases hwait : isWait (s.leaf ch) with
  | true =>
    rw [runLeaf_of_isWait hwait] at hexec
    exact .inl ⟨rfl, (loopStep_none_iff s ch).2 hwait, hexec⟩
  | false => exact .inr ⟨rfl, _, loopStep_of_not_isWait hwait, hexec⟩

/-- Settles O20: what an iteration consumes is `leafBytes` of its leaf, which is positive where the leaf is no wait and never more
than the buffer holds. -/
theorem iterationConsumesBytes : Obligations.IterationConsumesBytes := by
  intro s t ch h n
  obtain ⟨hwait, -⟩ := loopStep_eq_some h
  have hn : n = leafBytes (s.leaf ch) := by
    cases hleaf : s.leaf ch <;> simp only [n, hleaf, leafBytes]
  rw [hn]
  exact ⟨leafBytes_pos _ _ hwait, leafBytes_le _ _, loopStep_buf h⟩

/-- Settles O22: each operation of the list is a leaf's, with its mnemonic, and an unselected leaf's is refused
(`exec_unselected`). -/
theorem unselectedOperationIsRefused : Obligations.UnselectedOperationIsRefused := by
  intro s ch
  have hrefused (leaf : LoopLeaf) : leafInstr ch leaf ≠ leafInstr ch (s.leaf ch) →
      exec (leafInstr ch leaf) s = .refused (.notSelected (leafName leaf)) := exec_unselected
  refine ⟨?_, exec_frmEvict_of_le⟩
  simp only [List.forall_mem_cons, List.not_mem_nil, false_imp_iff, implies_true, and_true]
  exact ⟨hrefused .waitNocand, hrefused (.garbage 0), hrefused .xmWait, hrefused .xm128, hrefused .xm1k, hrefused .stdWait8,
    hrefused .stdBadpar, hrefused .stdWaitlen, hrefused .stdBadcrc, hrefused (.stdEmit 0)⟩

/-! ### FRM.EVICT, FRM.ADD and FRM.LOOP -/

/-- Settles O15: over the bound FRM.EVICT raises its event for all but the tail. -/
theorem evictKeepsTail : Obligations.EvictKeepsTail := by
  intro s ch hover f n
  refine ⟨?_, by simp only [List.length_drop, n, f]; omega⟩
  rw [exec_frmEvict_of_over hover, State.evict_def, State.returning_setFrm]
  rfl

theorem returning_append (s : State) (r : Ret) (ch : Chan) (chunk : List Byte) :
    (s.returning r).append ch chunk = (s.append ch chunk).returning r := by
  rw [State.append_def, State.append_def, State.returning_frm, State.returning_setFrm]

/-- FRM.APPEND and FRM.LOOP after an operation that returned `r`: the value returned before is lost. -/
theorem execAll_append_loop (s : State) (r : Ret) (ch : Chan) (chunk : List Byte) :
    execAll [.frmAppend ch chunk, .frmLoop ch] (s.returning r) = .next (((s.append ch chunk).loop ch).returning .nothing) := by
  rw [execAll_cons_of_next (exec_frmAppend ch chunk _), execAll_singleton_of_next (exec_frmLoop ch _), returning_append,
    State.returning_returning, returning_loop, State.returning_returning]

/-- Settles O17, on the two sides of the eviction test. -/
theorem addRunsEvictAppendLoop : Obligations.AddRunsEvictAppendLoop := by
  intro s ch chunk
  rw [exec_frmAdd, State.add]
  by_cases hover : 131072 < (s.frm ch).buf.length
  · rw [if_pos hover, if_pos ((overBound_iff s ch).2 hover), List.singleton_append,
      execAll_cons_of_next (exec_frmEvict_of_over hover), execAll_append_loop]
  · rw [if_neg hover, if_neg (mt (overBound_iff s ch).1 hover), List.nil_append]
    exact (execAll_append_loop s s.ret ch chunk).symm

@[simp] theorem Frm.load_rx (f : Frm) (ch : Chan) (chunk : List Byte) : (f.load ch chunk).rx = f.rx ++ chunk := by
  unfold load
  split <;> simp

theorem add_rx (s : State) (ch : Chan) (chunk : List Byte) : ((s.add ch chunk).frm ch).rx = (s.frm ch).rx ++ chunk := by
  rw [add_eq, loop_rx, State.setFrm_frm, Frm.load_rx]

/-- Settles O18: FRM.ADD replaces its own framer and frees the accumulator (`add_eq_install`), nothing else. -/
theorem addNeverFails : Obligations.AddNeverFails := by
  intro s ch chunk
  obtain ⟨f, n, hadd⟩ := add_eq_install s ch chunk
  refine ⟨_, exec_frmAdd ch chunk s, ?_, ?_, ?_, ?_, rfl, ?_⟩
  · rw [hadd, State.returning_frm, State.install_frm_of_ne s f n (otherChan_ne ch)]
  · rw [hadd, State.returning_cfg, State.install_cfg]
  · rw [hadd, State.returning_ext, State.install_ext]
  · rw [hadd, State.returning_host, State.install_host]
  · rw [State.returning_frm, add_rx]

/-- Settles O19: the loop does nothing at a wait, unfolds once elsewhere (`loop_of_not_isWait`), and its fuel reaches a wait
(`loopFor_wait`). -/
theorem loopEndsAtWait : Obligations.LoopEndsAtWait := by
  refine ⟨fun s ch hwait => ?_, fun s t ch hwait hexec => ?_, fun s ch => ?_⟩
  · rw [exec_frmLoop, loop_of_isWait hwait]
    rfl
  · rw [exec_selected] at hexec
    obtain rfl := Host.Outcome.next.inj hexec
    rw [exec_frmLoop, exec_frmLoop, loop_of_not_isWait hwait, returning_loop, State.returning_returning]
  · obtain ⟨f, n, hloop⟩ := loop_eq_install s ch
    have hwait : isWait ((s.loop ch).leaf ch) = true := loopFor_wait _ s ch (Nat.lt_succ_self _)
    refine ⟨_, exec_frmLoop ch s, ?_, ?_, ?_, ?_, ?_, ?_, ?_⟩
    · rwa [State.leaf, State.returning_cfg, State.returning_frm]
    · rw [State.returning_frm]
      exact loop_buf_suffix s ch
    · rw [State.returning_frm, loop_rx]
    · rw [hloop, State.returning_frm, State.install_frm_of_ne s f n (otherChan_ne ch)]
    · rw [hloop, State.returning_cfg, State.install_cfg]
    · rw [hloop, State.returning_ext, State.install_ext]
    · rw [hloop, State.returning_host, State.install_host]

/-! ### The bound and the overflow event (R36 (c), R258) -/

theorem Frm.load_buf_length_le (f : Frm) (ch : Chan) (chunk : List Byte) :
    (f.load ch chunk).buf.length ≤ 131072 + chunk.length := by
  unfold load
  split
  · simp only [append_buf, evict_buf, List.length_append, List.length_drop, config_tailKeep]
    omega
  · simp only [append_buf, List.length_append]
    omega

/-- Settles O35: the loop only shortens what FRM.ADD loads. -/
theorem bufferStaysBounded : Obligations.BufferStaysBounded := by
  intro s ch chunk
  refine ⟨_, exec_frmAdd ch chunk s, ?_⟩
  rw [State.returning_frm, add_eq]
  refine (loop_buf_suffix _ ch).length_le.trans ?_
  rw [State.setFrm_frm]
  exact Frm.load_buf_length_le _ ch chunk

/-- None of the events is an overflow. -/
def NoOverflow (evs : List Event) : Prop := ∀ (c : Chan) (bytes : List Byte), Event.diag c bytes .bufferOverflow ∉ evs

/-- A leaf raises no overflow: that is FRM.EVICT's reason alone (R141, R251). -/
theorem Frm.act_ev (f : Frm) (ch : Chan) (leaf : LoopLeaf) : ∃ evs, (f.act ch leaf).ev = f.ev ++ evs ∧ NoOverflow evs := by
  cases leaf with
  | garbage _ | stdBadpar | stdBadcrc | xm128 | xm1k => exact ⟨_, rfl, by simp [NoOverflow]⟩
  | stdEmit _ | waitNocand | xmWait | stdWait8 | stdWaitlen =>
    exact ⟨[], (List.append_nil _).symm, by simp [NoOverflow]⟩

theorem loop_ev (s : State) (ch : Chan) : ∃ evs, ((s.loop ch).frm ch).ev = (s.frm ch).ev ++ evs ∧ NoOverflow evs := by
  refine loop_frm_induction (P := fun f => ∃ evs, f.ev = (s.frm ch).ev ++ evs ∧ NoOverflow evs) ?_
    ⟨[], (List.append_nil _).symm, by simp [NoOverflow]⟩
  rintro f ⟨evs, hev, hno⟩ -
  obtain ⟨evs', hev', hno'⟩ := f.act_ev ch (selectLeaf s.cfg f.buf)
  exact ⟨evs ++ evs', by rw [hev', hev, List.append_assoc],
    fun c bytes hmem => (List.mem_append.1 hmem).elim (hno c bytes) (hno' c bytes)⟩

/-- Settles O40: the eviction's event is raised before the loop begins, and the loop raises none (`loop_ev`). -/
theorem overflowEventComesFirst : Obligations.OverflowEventComesFirst := by
  intro s ch chunk
  obtain ⟨post, hev, hno⟩ := loop_ev (s.setFrm ch ((s.frm ch).load ch chunk)) ch
  refine ⟨_, post, exec_frmAdd ch chunk s, ?_, hno⟩
  rw [State.returning_frm, add_eq, hev, State.setFrm_frm, Frm.load]
  split <;> simp

/-! ### Stalls (R145, R148, R152, R156) -/

/-- While the loop stalls on the buffer with the chunk behind it, FRM.ADD is FRM.APPEND. -/
theorem add_of_isWait {s : State} {ch : Chan} {chunk : List Byte} (hle : (s.frm ch).buf.length ≤ 131072)
    (hwait : isWait ((s.append ch chunk).leaf ch) = true) : s.add ch chunk = s.append ch chunk := by
  rw [State.add, if_neg (mt (overBound_iff s ch).1 (Nat.not_lt.2 hle))]
  exact loop_of_isWait hwait

/-- Settles O41: each stall selects its wait, on the state with the chunk appended. -/
theorem stalledAddOnlyStores : Obligations.StalledAddOnlyStores := by
  intro s ch chunk hle w buf hstall
  have hbuf : ((s.append ch chunk).frm ch).buf = buf := by rw [State.append_def, State.setFrm_frm, Frm.append_buf]
  have hcfg : (s.append ch chunk).cfg = s.cfg := by rw [State.append_def, State.setFrm_cfg]
  have hwait : isWait ((s.append ch chunk).leaf ch) = true := by
    simp only [w, ← hbuf, ← hcfg] at hstall
    rcases hstall with hsearch | ⟨hsearch, hlen⟩ | ⟨hsearch, hlen⟩ | ⟨hsearch, h8, hhdr, hlen⟩
    · rw [leaf_of_search_none hsearch]; rfl
    · rw [leaf_of_xm_incomplete hsearch hlen]; rfl
    · rw [leaf_of_std hsearch, if_pos hlen]; rfl
    · rw [leaf_of_std hsearch, if_neg (Nat.not_lt.mpr h8), if_neg (not_not.mpr hhdr)]
      exact congrArg isWait (if_pos hlen)
  rw [exec_frmAdd, add_of_isWait hle hwait, State.append_def, State.returning_setFrm]
  rfl

/-! ### Chunking (R159) -/

theorem adds_cons (s : State) (ch : Chan) (c : List Byte) (cs : List (List Byte)) :
    s.adds ch (c :: cs) = (s.add ch c).adds ch cs := rfl

/-- Additions in a row none of which meets a buffer over its bound are one addition of the joined chunk: the first two are joined
(`add_append`), and the row is one shorter. -/
theorem adds_eq_add_flatten (ch : Chan) (c : List Byte) (cs : List (List Byte)) {s : State}
    (h : ∀ k ≤ cs.length, (s.adds ch ((c :: cs).take k)).overBound ch = false) :
    s.adds ch (c :: cs) = s.add ch (c :: cs).flatten := by
  induction cs generalizing c with
  | nil => simp [State.adds]
  | cons d ds ih =>
    have hjoin : (s.add ch c).add ch d = s.add ch (c ++ d) := add_append s ch c d (h 0 (Nat.zero_le _)) (h 1 (by simp))
    have hds := ih (c ++ d) fun k hk => by
      cases k with
      | zero => exact h 0 (Nat.zero_le _)
      | succ k =>
        have hk2 := h (k + 2) (by simp only [List.length_cons]; omega)
        rwa [List.take_succ_cons, List.take_succ_cons, adds_cons, adds_cons, hjoin] at hk2
    rw [adds_cons, adds_cons, hjoin, ← adds_cons, hds]
    simp

/-- Settles O34: the proviso is the hypothesis of `adds_eq_add_flatten`, for the state before each chunk. -/
theorem chunkingInvariance : Obligations.ChunkingInvariance := by
  intro s ch chunks hne hbound
  refine ⟨_, _, execAll_adds ch chunks s hne, exec_frmAdd ch _ s, ?_⟩
  obtain ⟨c, cs, rfl⟩ := List.exists_cons_of_ne_nil hne
  rw [adds_eq_add_flatten ch c cs fun k hk => ?_]
  have hle : ((s.adds ch ((c :: cs).take k)).frm ch).buf.length ≤ 131072 := by
    cases k with
    | zero => exact hbound 0 s (by simp) rfl
    | succ k =>
      have hrun := execAll_adds ch ((c :: cs).take (k + 1)) s (by simp)
      simpa using hbound (k + 1) _ (by simp only [List.length_cons]; omega) hrun
  simpa [State.overBound] using hle

/-! ### The header checksum (R81) -/

theorem sum8_append_singleton (bytes : List Byte) (b : Byte) : sum8 (bytes ++ [b]) = sum8 bytes + b := by
  simp [sum8]

/-- A byte is the one's complement of a sum exactly where the two sum to all ones. -/
theorem eq_not8_iff (b x : Byte) : b = not8 x ↔ x + b = 0xFF := by
  rw [not8]
  constructor
  · rintro rfl
    exact BitVec.add_not_self x
  · intro h
    rw [← BitVec.add_right_inj x, h]
    exact (BitVec.add_not_self x).symm

/-- Settles O25: the sum of eight bytes is that of seven and the last, which is the complement exactly where they sum to 255. -/
theorem headerValidIffSumIs255 : Obligations.HeaderValidIffSumIs255 := by
  intro w buf hones hlen
  have hslice : slice buf 0 8 = slice buf 0 7 ++ [byteAt buf 7] := by
    simp only [slice, List.drop_zero, byteAt]
    rw [List.take_succ_eq_append_getElem hlen, List.getD_eq_getElem]
  rw [hdrChk_of_ones hones, hslice, sum8_append_singleton, eq_not8_iff]

/-! ### XMODEM blocks (R83, R147) -/

theorem search_of_candidateAt {w : WireParams} {buf : List Byte} {k : FmtKind} (h : candidateAt w buf = some k) :
    search w buf = some (0, k) := by
  cases buf with
  | nil => cases h
  | cons x rest => rw [search, h]

/-- The leaf of a block's length (R149, R150). -/
def blkLeaf : BlkLen → LoopLeaf
  | .n128 => .xm128
  | .n1024 => .xm1k

/-- A complete XMODEM block at the head is consumed at the length `n` its start byte announces (R143, R149, R150). -/
theorem exec_of_xm_complete {s : State} {ch : Chan} {n : BlkLen} (h : search s.cfg.wire (s.frm ch).buf = some (0, .xm))
    (hblk : blkOf s.cfg.wire (byteAt (s.frm ch).buf 0) = n) (hlen : blkTotal n ≤ (s.frm ch).buf.length) :
    exec (leafInstr ch (blkLeaf n)) s = .next ((s.xmBlock ch n).returning .nothing) := by
  have hblock : haveBlock s.cfg.wire (s.frm ch).buf = true := by rw [haveBlock, hblk, decide_eq_true hlen]
  have hleaf : s.leaf ch = blkLeaf n := by cases n <;> simp [State.leaf, selectLeaf, h, hblock, hblk, blkLeaf]
  rw [← hleaf, exec_selected, State.runLeaf, hleaf]
  cases n <;> rfl

theorem xmDupFlag_eq (last : Option Byte) (q : Byte) : xmDupFlag last q = decide (last = some q) := by
  rw [xmDupFlag, beq_eq_decide]

theorem xmGapFlag_eq (last : Option Byte) (q : Byte) :
    xmGapFlag last q = decide (∃ l, last = some l ∧ l ≠ q ∧ l + 1 ≠ q) := by
  cases last <;> simp [xmGapFlag, bne, beq_eq_decide]

/-- The block action, its two flags spelled out (R147). -/
theorem Frm.xmBlock_eq (f : Frm) (ch : Chan) (n : BlkLen) {q : Byte} (hq : byteAt f.buf 1 = q) :
    f.xmBlock ch n = { f with
      buf := f.buf.drop (blkTotal n)
      xmLast := some q
      xmGap := decide (∃ l, f.xmLast = some l ∧ l ≠ q ∧ l + 1 ≠ q)
      xmDup := decide (f.xmLast = some q)
      ev := f.ev ++ [.xm ch q n]
      hist := f.hist ++ [.xm q n (f.buf.take (blkTotal n))] } := by
  rw [← xmGapFlag_eq, ← xmDupFlag_eq, ← hq]
  rfl

/-- Settles O27: the block's three header bytes are a candidate of the XMODEM format, and with the block complete the start byte
selects the leaf. -/
theorem xmodemBlocksAreConsumed : Obligations.XmodemBlocksAreConsumed := by
  intro s ch q c rest hwire hqc f dup gap
  have hsearch (start : Byte) (hstart : start = 0x01 ∨ start = 0x02) (hbuf : f.buf = start :: q :: c :: rest) :
      search s.cfg.wire f.buf = some (0, .xm) := by
    refine search_of_candidateAt ?_
    rw [hbuf, candidateAt_cons_xm_iff, isXmHeader_iff, hwire]
    exact ⟨hstart, hqc⟩
  have hblock (start : Byte) (n : BlkLen) (hstart : start = 0x01 ∨ start = 0x02) (hbuf : f.buf = start :: q :: c :: rest)
      (hn : blkOf defaultWire start = n) (hlen : blkTotal n ≤ f.buf.length) :
      exec (leafInstr ch (blkLeaf n)) s = .next ((s.returning .nothing).setFrm ch (f.xmBlock ch n)) := by
    rw [exec_of_xm_complete (hsearch start hstart hbuf) (by rw [hwire, ← hn, hbuf]; rfl) hlen, State.xmBlock_def,
      State.returning_setFrm]
  refine ⟨fun hbuf hlen => ?_, fun hbuf hlen => ?_⟩
  · refine (hblock 0x01 .n128 (.inl rfl) hbuf rfl (by rw [hbuf, blkTotal_n128]; simp only [List.length_cons]; omega)).trans ?_
    rw [Frm.xmBlock_eq f ch .n128 (q := q) (by rw [hbuf]; rfl)]
    rfl
  · refine (hblock 0x02 .n1024 (.inr rfl) hbuf rfl (by rw [hbuf, blkTotal_n1024]; simp only [List.length_cons]; omega)).trans ?_
    rw [Frm.xmBlock_eq f ch .n1024 (q := q) (by rw [hbuf]; rfl)]
    rfl

end Sys2Proof.Machine
end

section
/-! PROOFS. The round trips of the wire encoding (41_framer.md section 6): what the loop does with a frame at the head of the
buffer, and with garbage before it. -/

namespace Sys2Proof.Machine

/-- The Frame that FRAME(seq, type, P) is read back as (R158). -/
def builtFrame (cfg : Params) (seq type : Byte) (p : List Byte) : Frame :=
  { sequence := seq, type := type, payload := p, raw := frameBytes cfg seq type p }

theorem append_frm (s : State) (ch : Chan) (chunk : List Byte) : (s.append ch chunk).frm ch = (s.frm ch).append chunk :=
  s.setFrm_frm ch _

theorem emit_frm (s : State) (ch : Chan) (len : Nat) : (s.emit ch len).frm ch = (s.frm ch).push len := by
  rw [State.emit_def, State.crcDone_frm, State.setFrm_frm]

theorem loop_of_buf_nil {s : State} {ch : Chan} (h : (s.frm ch).buf = []) : s.loop ch = s := by
  refine loop_of_isWait ?_
  rw [leaf_of_search_none (by rw [h]; rfl)]
  rfl

/-- A buffer that holds exactly one frame: it is pushed, and the loop waits on an empty buffer. -/
theorem loop_of_frameBytes {s : State} {ch : Chan} {seq type : Byte} {p : List Byte} (hp : p.length ≤ 65535)
    (hbuf : (s.frm ch).buf = frameBytes s.cfg seq type p) :
    s.loop ch = s.emit ch p.length ∧
    ((s.emit ch p.length).frm ch).ready = (s.frm ch).ready ++ [builtFrame s.cfg seq type p] ∧
    ((s.emit ch p.length).frm ch).buf = [] := by
  obtain ⟨hleaf, hframe, hlen⟩ := selectLeaf_frameBytes s.cfg seq type p [] hp
  rw [List.append_nil, ← hbuf] at hleaf hframe
  have hempty : ((s.emit ch p.length).frm ch).buf = [] := by
    rw [emit_frm, Frm.push_buf, hbuf]
    exact List.drop_eq_nil_of_le (by rw [hlen, config_stdHdr, config_stdTrl]; omega)
  refine ⟨?_, ?_, hempty⟩
  · have hwait : isWait (s.leaf ch) = false := by rw [State.leaf, hleaf]; rfl
    rw [loop_of_not_isWait hwait, State.runLeaf, State.leaf, hleaf]
    exact loop_of_buf_nil hempty
  · rw [emit_frm, Frm.push_ready, hframe, builtFrame, hbuf]

/-- From an empty buffer FRM.ADD is FRM.APPEND and FRM.LOOP. -/
theorem add_of_buf_nil {s : State} {ch : Chan} (h : (s.frm ch).buf = []) (chunk : List Byte) :
    s.add ch chunk = (s.append ch chunk).loop ch := by
  have hnot : s.overBound ch = false := by simp [State.overBound, h]
  simp [State.add, hnot]

theorem append_frm_of_buf_nil {s : State} {ch : Chan} (h : (s.frm ch).buf = []) (chunk : List Byte) :
    ((s.append ch chunk).frm ch).buf = chunk := by
  rw [append_frm, Frm.append_buf, h, List.nil_append]

/-- Settles O32: the chunk is the one frame `loop_of_frameBytes` reads, and pushing it raises no event. -/
theorem frameRoundTrip : Obligations.FrameRoundTrip := by
  intro s ch seq type p hnil hp
  set s1 := s.append ch (frameBytes s.cfg seq type p) with hs1
  have hcfg : s1.cfg = s.cfg := s.setFrm_cfg ch _
  obtain ⟨hloop, hready, hbuf⟩ := loop_of_frameBytes (s := s1) hp (by rw [hcfg]; exact append_frm_of_buf_nil hnil _)
  refine ⟨_, exec_frmAdd ch _ s, ?_⟩
  rw [State.returning_frm, add_of_buf_nil hnil, ← hs1, hloop]
  refine ⟨?_, ?_, hbuf, ?_⟩
  · rw [hready, hcfg, hs1, append_frm, Frm.append_ready, builtFrame]
  · rw [emit_frm, Frm.push_ev, hs1, append_frm, Frm.append_ev]
  · rw [emit_frm, Frm.push_xmLast, hs1, append_frm, Frm.append_xmLast]

/-- The search's answer is pinned by a candidate at an offset with none before it. -/
theorem search_eq_of_earliest {w : WireParams} {buf : List Byte} {i : Nat} {k : FmtKind} (hi : IsCandidate w buf i k)
    (hlt : ∀ j k', j < i → ¬ IsCandidate w buf j k') : ∃ k', search w buf = some (i, k') := by
  simp only [← candidateAt_drop_iff] at hi hlt
  cases hsearch : search w buf with
  | none =>
    have hnone : candidateAt w (buf.drop i) = none := candidateAt_eq_none_before_search (by simp [hsearch])
    rw [hnone] at hi
    cases hi
  | some r =>
    obtain ⟨j, k'⟩ := r
    have hle : i ≤ j := by
      by_contra hji
      exact hlt j k' (Nat.lt_of_not_le hji) (search_candidate hsearch)
    have hge : j ≤ i := by
      by_contra hij
      have hnone : candidateAt w (buf.drop i) = none :=
        candidateAt_eq_none_before_search (by simpa [hsearch] using Nat.lt_of_not_le hij)
      rw [hnone] at hi
      cases hi
    exact ⟨k', by rw [Nat.le_antisymm hge hle]⟩

theorem isCandidate_frameBytes (cfg : Params) (g : List Byte) (seq type : Byte) (p : List Byte) :
    IsCandidate cfg.wire (g ++ frameBytes cfg seq type p) g.length .std := by
  obtain ⟨h7, c0, c1, hframe, -, -⟩ := frameBytes_eq cfg seq type p
  rw [← candidateAt_drop_iff, List.drop_left, hframe]
  rfl

/-- Settles O33: the earliest candidate is the frame's marker, so the garbage is raised as one event, and what is left is the
frame (`loop_of_frameBytes`). -/
theorem garbageThenFrame : Obligations.GarbageThenFrame := by
  intro s ch seq type p g hnil hp hg hnone
  set s1 := s.append ch (g ++ frameBytes s.cfg seq type p) with hs1
  have hbuf1 : (s1.frm ch).buf = g ++ frameBytes s.cfg seq type p := append_frm_of_buf_nil hnil _
  have hcfg1 : s1.cfg = s.cfg := s.setFrm_cfg ch _
  obtain ⟨k, hsearch⟩ := search_eq_of_earliest (isCandidate_frameBytes s.cfg g seq type p) hnone
  have hleaf : s1.leaf ch = .garbage g.length :=
    leaf_of_search_pos (by rw [hcfg1, hbuf1]; exact hsearch) (List.length_pos_iff.2 hg)
  set s2 := s1.garbage ch g.length with hs2
  have hfrm2 : s2.frm ch = (s1.frm ch).raise ch g.length .garbageBeforeHeader := s1.setFrm_frm ch _
  have hcfg2 : s2.cfg = s.cfg := (s1.setFrm_cfg ch _).trans hcfg1
  have hbuf2 : (s2.frm ch).buf = frameBytes s2.cfg seq type p := by
    rw [hfrm2, Frm.raise_buf, hbuf1, List.drop_left, hcfg2]
  obtain ⟨hloop, hready, hbuf⟩ := loop_of_frameBytes hp hbuf2
  have hadd : s.add ch (g ++ frameBytes s.cfg seq type p) = s2.emit ch p.length := by
    have hwait : isWait (s1.leaf ch) = false := by rw [hleaf]; rfl
    rw [add_of_buf_nil hnil, ← hs1, loop_of_not_isWait hwait, State.runLeaf, hleaf]
    exact hloop
  have hev2 : (s2.frm ch).ev = (s.frm ch).ev ++ [.diag ch g .garbageBeforeHeader] := by
    rw [hfrm2, Frm.raise_ev, hbuf1, List.take_left, hs1, append_frm, Frm.append_ev]
  have hready2 : (s2.frm ch).ready = (s.frm ch).ready := by
    rw [hfrm2, Frm.raise_ready, hs1, append_frm, Frm.append_ready]
  refine ⟨_, exec_frmAdd ch _ s, ?_⟩
  rw [State.returning_frm, hadd]
  refine ⟨?_, ?_, hbuf⟩
  · rw [emit_frm, Frm.push_ev, hev2]
  · rw [hready, hready2, hcfg2]
    rfl

end Sys2Proof.Machine
end

section
/-! PROOFS. What every operation keeps: the invariant of R36 and R262, one framer's independence of the other (R61), the
parameters, and the blindness to the XMODEM bookkeeping (R26, R27). -/

namespace Sys2Proof.Machine

/-! ### The invariant of a framer, change by change -/

theorem frmInv_reset (cfg : Params) (ch : Chan) : FrmInv cfg ch Frm.reset where
  accounted := rfl
  events := rfl
  fifo := List.suffix_rfl
  spans := by simp [Frm.reset]
  flags := by simp [Frm.reset]

theorem FrmInv.append {cfg : Params} {ch : Chan} {f : Frm} (h : FrmInv cfg ch f) (chunk : List Byte) :
    FrmInv cfg ch (f.append chunk) where
  accounted := by rw [Frm.append_rx, Frm.append_hist, Frm.append_buf, h.accounted, List.append_assoc]
  events := h.events
  fifo := h.fifo
  spans := h.spans
  flags := h.flags

theorem FrmInv.take {cfg : Params} {ch : Chan} {f : Frm} (h : FrmInv cfg ch f) :
    FrmInv cfg ch { f with ready := [] } where
  accounted := h.accounted
  events := h.events
  fifo := List.nil_suffix
  spans := h.spans
  flags := h.flags

/-- The one way bytes leave the buffer (R262): a span at its head, added to the history, reported by its event and, if it is a
frame, pushed. -/
structure Frm.Leaves (ch : Chan) (f g : Frm) (sp : Span) : Prop where
  rx : g.rx = f.rx
  buf : f.buf = sp.bytes ++ g.buf
  hist : g.hist = f.hist ++ [sp]
  ev : g.ev = f.ev ++ (sp.event? ch).toList
  ready : g.ready = f.ready ++ sp.frame?.toList

/-- The two flags are consistent (R147): the invariant's last clause. -/
def FlagsOk (f : Frm) : Prop :=
  ¬(f.xmGap = true ∧ f.xmDup = true) ∧ (f.xmLast = none → f.xmGap = false ∧ f.xmDup = false)

theorem FrmInv.of_leaves {cfg : Params} {ch : Chan} {f g : Frm} {sp : Span} (h : FrmInv cfg ch f)
    (hsp : f.Leaves ch g sp) (hok : SpanOk cfg sp) (hflags : FlagsOk g) : FrmInv cfg ch g where
  accounted := by simp [hsp.rx, hsp.hist, h.accounted, hsp.buf]
  events := by
    rw [hsp.ev, hsp.hist, List.filterMap_append, h.events]
    cases hev : sp.event? ch <;> simp [hev]
  fifo := by
    rw [hsp.ready, hsp.hist, List.filterMap_append]
    obtain ⟨pre, hpre⟩ := h.fifo
    refine ⟨pre, ?_⟩
    rw [← List.append_assoc, hpre]
    cases hfr : sp.frame? <;> simp [hfr]
  spans := by
    rw [hsp.hist]
    simpa [or_imp, forall_and, hok] using h.spans
  flags := hflags

theorem Frm.leaves_raise (f : Frm) (ch : Chan) (n : Nat) (r : Reason) :
    f.Leaves ch (f.raise ch n r) (.diag (f.buf.take n) r) where
  rx := rfl
  buf := (List.take_append_drop n f.buf).symm
  hist := rfl
  ev := rfl
  ready := (List.append_nil _).symm

theorem FrmInv.raise {cfg : Params} {ch : Chan} {f : Frm} (h : FrmInv cfg ch f) {n : Nat} {r : Reason}
    (hok : SpanOk cfg (.diag (f.buf.take n) r)) : FrmInv cfg ch (f.raise ch n r) :=
  h.of_leaves (f.leaves_raise ch n r) hok h.flags

theorem Frm.leaves_xmBlock (f : Frm) (ch : Chan) (n : BlkLen) :
    f.Leaves ch (f.xmBlock ch n) (.xm (byteAt f.buf 1) n (f.buf.take (blkTotal n))) where
  rx := rfl
  buf := (List.take_append_drop _ f.buf).symm
  hist := rfl
  ev := rfl
  ready := (List.append_nil _).symm

theorem Frm.leaves_push (f : Frm) (ch : Chan) (len : Nat) : f.Leaves ch (f.push len) (.frame (frameOf f.buf len)) where
  rx := rfl
  buf := (List.take_append_drop _ f.buf).symm
  hist := rfl
  ev := (List.append_nil _).symm
  ready := rfl

/-- A block is a gap only if it repeats nothing, and there is a last block behind it (R147). -/
theorem flagsOk_xmBlock (f : Frm) (ch : Chan) (n : BlkLen) : FlagsOk (f.xmBlock ch n) := by
  refine ⟨?_, by simp⟩
  rw [Frm.xmBlock_xmGap, Frm.xmBlock_xmDup]
  cases hlast : f.xmLast <;> simp +contextual [xmGapFlag, xmDupFlag]

/-! ### Every span is what its disposition says -/

/-- A standard candidate at the head is the marker (R85). -/
theorem take_three_of_search_std {w : WireParams} {buf : List Byte} (h : search w buf = some (0, .std)) :
    buf.take 3 = Config.stdMarker := by
  have hcand : candidateAt w buf = some .std := search_candidate h
  match buf, hcand with
  | a :: b :: c :: rest, hcand =>
    obtain ⟨rfl, rfl, rfl⟩ := (isMarker_iff a b c).1 ((candidateAt_cons_std_iff w a b c rest).1 hcand)
    rfl

/-- A frame is emitted only if both its checks hold, and its fields are those of its raw bytes (R25, R36 (b), R154). -/
theorem validFrame_frameOf {cfg : Params} {buf : List Byte} (hsearch : search cfg.wire buf = some (0, .std))
    (hpar : parOk cfg.wire buf = true) (hall : haveAll buf = true) (hcrc : crcOk cfg.tables buf = true) :
    ValidFrame cfg (frameOf buf (declLen buf)) := by
  have hlen : 8 + declLen buf + 2 ≤ buf.length := by simpa [haveAll] using hall
  set n := declLen buf
  have hpay : (slice buf 8 (8 + n)).length = n := by simp [slice]; omega
  have hbyte {i : Nat} (hi : i < 8 + n + 2) : byteAt (slice buf 0 (8 + n + 2)) i = byteAt buf i := byteAt_slice_zero hi
  have hslice {i j : Nat} (hj : j ≤ 8 + n + 2) : slice (slice buf 0 (8 + n + 2)) i j = slice buf i j := slice_slice_zero hj
  constructor <;> simp only [frameOf, config_stdHdr, config_stdTrl, hpay]
  · simp [slice]; omega
  · rw [hslice (by omega)]
    exact take_three_of_search_std hsearch
  · exact hbyte (by omega)
  · exact hbyte (by omega)
  · rw [declLen, hbyte (by omega), hbyte (by omega)]
    rfl
  · exact hslice (by omega)
  · rw [hbyte (by omega), hslice (by omega)]
    simpa [parOk] using hpar
  · rw [hbyte (by omega), hbyte (by omega), hslice (by omega)]
    have htrl : 8 + n + 1 = 9 + n := by omega
    simpa [crcOk, n, htrl] using hcrc

theorem FrmInv.evict {cfg : Params} {ch : Chan} {f : Frm} (h : FrmInv cfg ch f) (hover : 131072 < f.buf.length) :
    FrmInv cfg ch (f.evict ch) := by
  refine h.raise ?_
  simp only [SpanOk, List.length_take, config_maxBufSize, config_tailKeep]
  omega

/-- The selected leaf keeps the invariant: the path of R143's tree to it says what its span is. -/
theorem FrmInv.act {cfg : Params} {ch : Chan} {f : Frm} (h : FrmInv cfg ch f) :
    FrmInv cfg ch (f.act ch (selectLeaf cfg f.buf)) := by
  rcases selectLeaf_cases cfg f.buf with ⟨hl, -⟩ | ⟨i, k, hl, hs, hi⟩ | ⟨hs, hx⟩ | ⟨hs, hx⟩
  · rw [hl]
    exact h
  · rw [hl]
    refine h.raise ?_
    have hlt := search_lt hs
    exact List.ne_nil_of_length_pos (by rw [List.length_take]; omega)
  · have h3 := search_lt hs
    rcases hx with ⟨hl, -⟩ | ⟨hl, hb, hk⟩ | ⟨hl, hb, hk⟩
    · rw [hl]
      exact h
    all_goals
      rw [hl]
      refine h.of_leaves (f.leaves_xmBlock ch _) ⟨?_, byteAt_slice_zero (by simp)⟩ (flagsOk_xmBlock f ch _)
      rw [haveBlock, hk] at hb
      exact List.length_take_of_le (of_decide_eq_true hb)
  · have hmarker := take_three_of_search_std hs
    rcases hx with ⟨hl, -⟩ | ⟨hl, -⟩ | ⟨hl, -⟩ | ⟨hl, -⟩ | ⟨hl, -, hpar, hall, hcrc⟩
    · rw [hl]
      exact h
    · rw [hl]
      exact h.raise hmarker
    · rw [hl]
      exact h
    · rw [hl]
      exact h.raise hmarker
    · rw [hl]
      exact h.of_leaves (f.leaves_push ch _) (validFrame_frameOf hs hpar hall hcrc) h.flags

theorem loop_inv {s : State} {ch : Chan} (h : FrmInv s.cfg ch (s.frm ch)) : FrmInv s.cfg ch ((s.loop ch).frm ch) :=
  loop_frm_induction (fun _ hf _ => hf.act) h

theorem FrmInv.load {cfg : Params} {ch : Chan} {f : Frm} (h : FrmInv cfg ch f) (chunk : List Byte) :
    FrmInv cfg ch (f.load ch chunk) := by
  unfold Frm.load
  split
  · exact (h.evict ‹_›).append chunk
  · exact h.append chunk

theorem add_inv {s : State} {ch : Chan} (h : FrmInv s.cfg ch (s.frm ch)) (chunk : List Byte) :
    FrmInv s.cfg ch ((s.add ch chunk).frm ch) := by
  have hcfg : (s.setFrm ch ((s.frm ch).load ch chunk)).cfg = s.cfg := s.setFrm_cfg ch _
  rw [add_eq, ← hcfg]
  refine loop_inv ?_
  rw [hcfg, State.setFrm_frm]
  exact h.load chunk

/-- Every operation on a framer keeps its invariant. -/
theorem exec_frmInv {i : Instr} {ch : Chan} (hi : instrChan i = some ch) {s t : State} (h : exec i s = .next t)
    (hs : FrmInv s.cfg ch (s.frm ch)) : FrmInv s.cfg ch (t.frm ch) := by
  cases onFramer_of_instrChan hi with
  | add chunk =>
    rw [exec_frmAdd] at h
    cases h
    rw [State.returning_frm]
    exact add_inv hs chunk
  | evict =>
    by_cases hover : 131072 < (s.frm ch).buf.length
    · rw [exec_frmEvict_of_over hover, State.evict_def] at h
      cases h
      rw [State.returning_frm, State.setFrm_frm]
      exact hs.evict hover
    · rw [exec_frmEvict_of_le (Nat.not_lt.1 hover)] at h
      cases h
  | append chunk =>
    rw [exec_frmAppend] at h
    cases h
    rw [State.returning_frm, append_frm]
    exact hs.append chunk
  | loop =>
    rw [exec_frmLoop] at h
    cases h
    rw [State.returning_frm]
    exact loop_inv hs
  | search =>
    rw [exec_frmSearch] at h
    cases h
    rwa [State.returning_frm]
  | take =>
    rw [exec_frmTake] at h
    cases h
    rw [State.returning_frm, State.setFrm_frm]
    exact hs.take
  | leaf l =>
    by_cases hsel : leafInstr ch l = leafInstr ch (s.leaf ch)
    · rw [hsel, exec_selected] at h
      cases h
      rw [State.returning_frm, runLeaf_frm]
      exact hs.act
    · rw [exec_unselected hsel] at h
      cases h

/-! ### The operations that act on no framer, and RESET -/

/-- An operation that acts on no framer, other than RESET, completes, keeps the parameters, and neither reads nor writes the
framers: it does the same whatever they hold. -/
theorem exec_of_instrChan_none {i : Instr} (hi : instrChan i = none) (hreset : i ≠ .reset) (s : State) :
    ∃ t, exec i s = .next t ∧ t.cfg = s.cfg ∧ t.frm0 = s.frm0 ∧ t.frm1 = s.frm1 ∧
      ∀ f0 f1 : Frm, exec i { s with frm0 := f0, frm1 := f1 } = .next { t with frm0 := f0, frm1 := f1 } := by
  cases i with
  | reset => exact absurd rfl hreset
  | frmAdd _ _ | frmEvict _ | frmAppend _ _ | frmLoop _ | frmSearch _ | frmWaitNocand _ | frmGarbage _ | frmXmWait _
  | frmXm128 _ | frmXm1k _ | frmStdWait8 _ | frmStdBadpar _ | frmStdWaitlen _ | frmStdBadcrc _ | frmStdEmit _ | frmTake _ =>
    cases hi
  | _ => exact ⟨_, rfl, rfl, rfl, rfl, fun _ _ => rfl⟩

theorem exec_reset (s : State) :
    exec .reset s = .next (((s.setFrm .ch0 Frm.reset).setFrm .ch1 Frm.reset).returning .nothing) := rfl

/-- Settles O59: RESET replaces both framers by the empty one, which is the reset state's. -/
theorem resetEmptiesInstances : Obligations.ResetEmptiesInstances :=
  ⟨exec_reset, rfl, rfl, rfl⟩

/-- Everything a completed operation does to the parameters and to a framer: RESET empties it, an operation of its own
replaces it, any other leaves it. -/
theorem exec_frm_cases {i : Instr} {s t : State} (h : exec i s = .next t) (ch : Chan) :
    t.cfg = s.cfg ∧ ((i = .reset ∧ t.frm ch = Frm.reset) ∨ instrChan i = some ch ∨ t.frm ch = s.frm ch) := by
  cases hi : instrChan i with
  | some c =>
    obtain ⟨f, n, r, rfl⟩ := exec_eq_install hi h
    refine ⟨by rw [State.returning_cfg, State.install_cfg], .inr ?_⟩
    by_cases hc : ch = c
    · exact .inl (by rw [hc])
    · exact .inr (by rw [State.returning_frm, State.install_frm_of_ne s f n hc])
  | none =>
    by_cases hreset : i = .reset
    · subst hreset
      rw [exec_reset] at h
      cases h
      exact ⟨rfl, .inl ⟨rfl, by cases ch <;> rfl⟩⟩
    · obtain ⟨u, hu, hcfg, h0, h1, -⟩ := exec_of_instrChan_none hi hreset s
      obtain rfl := Host.Outcome.next.inj (h.symm.trans hu)
      exact ⟨hcfg, .inr (.inr (by cases ch <;> assumption))⟩

/-- Settles O60: part of `exec_frm_cases`. -/
theorem parametersAreNeverWritten : Obligations.ParametersAreNeverWritten :=
  fun _ _ _ h => (exec_frm_cases h .ch0).1

/-- Every operation keeps the invariant of both framers. -/
theorem exec_inv {i : Instr} {s t : State} (h : exec i s = .next t) (hs : Inv s) : Inv t := by
  intro ch
  obtain ⟨hcfg, ⟨-, hreset⟩ | hi | hsame⟩ := exec_frm_cases h ch
  · rw [hreset]
    exact frmInv_reset _ _
  · rw [hcfg]
    exact exec_frmInv hi h (hs ch)
  · rw [hcfg, hsame]
    exact hs ch

/-- Settles O36: a step is idle or runs one operation (`step_cases`), on a state that differs in the host's queue alone. -/
theorem stepKeepsInvariant : Obligations.StepKeepsInvariant := by
  intro s t hs h
  rcases step_cases s with ⟨-, hstep⟩ | ⟨r, rest, i, -, -, hstep⟩ | ⟨r, rest, e, -, -, hstep⟩
  · rw [hstep] at h
    cases h
    exact hs
  · rw [hstep] at h
    exact exec_inv h fun ch => by cases ch <;> exact hs _
  · rw [hstep] at h
    cases h

/-- Settles O37: both framers are empty in either state, and an empty one has the invariant (`frmInv_reset`). -/
theorem resetHasInvariant : Obligations.ResetHasInvariant := by
  refine ⟨fun ch => ?_, fun s => ⟨_, exec_reset s, fun ch => ?_⟩⟩
  · cases ch <;> exact frmInv_reset _ _
  · cases ch <;> exact frmInv_reset _ _

/-! ### One framer's independence of the other (R61) -/

/-- Settles O39: by `exec_cong` for equality of framers. -/
theorem framerOpsTouchOneInstance : Obligations.FramerOpsTouchOneInstance := by
  intro i ch s s' t hi hcfg hfrm h
  rcases exec_cong frmCong_eq hi hcfg hfrm with ⟨f, g, n, r, rfl, hs, hs'⟩ | ⟨r, hs, -⟩
  · obtain rfl := Host.Outcome.next.inj (hs.symm.trans h)
    refine ⟨⟨_, hs', ?_, rfl⟩, ?_, ?_, ?_, ?_⟩
    · simp only [State.returning_frm, State.install_frm]
    · rw [State.returning_frm, State.install_frm_of_ne s f n (otherChan_ne ch)]
    · rw [State.returning_ext, State.install_ext]
    · rw [State.returning_cfg, State.install_cfg]
    · rw [State.returning_host, State.install_host]
  · rw [hs] at h
    cases h

/-- The operations on one framer, run by themselves from a state that agrees on that framer and the parameters, leave it as
the whole row does: an operation of its own answers alike, any other leaves the agreement. -/
theorem execAll_filter_instrChan (ch : Chan) (l : List Instr) {s s' t : State} (hl : Instr.reset ∉ l)
    (hcfg : s.cfg = s'.cfg) (hfrm : s.frm ch = s'.frm ch) (h : execAll l s = .next t) :
    ∃ u, execAll (l.filter fun i => decide (instrChan i = some ch)) s' = .next u ∧ u.frm ch = t.frm ch := by
  induction l generalizing s s' with
  | nil =>
    cases h
    exact ⟨s', rfl, hfrm.symm⟩
  | cons i is ih =>
    obtain ⟨hne, his⟩ : Instr.reset ≠ i ∧ Instr.reset ∉ is := by simpa using hl
    cases hexec : exec i s with
    | next v =>
      rw [execAll_cons_of_next hexec] at h
      by_cases hi : instrChan i = some ch
      · rcases exec_cong frmCong_eq hi hcfg hfrm with ⟨f, g, n, r, rfl, hs, hs'⟩ | ⟨r, hs, -⟩
        · obtain rfl := Host.Outcome.next.inj (hs.symm.trans hexec)
          rw [List.filter_cons_of_pos (by simpa using hi), execAll_cons_of_next hs']
          exact ih his (by simpa using hcfg) (by simp) h
        · rw [hs] at hexec
          cases hexec
      · rw [List.filter_cons_of_neg (by simpa using hi)]
        obtain ⟨hcfgv, ⟨hreset, -⟩ | hself | hsame⟩ := exec_frm_cases hexec ch
        · exact absurd hreset.symm hne
        · exact absurd hself hi
        · exact ih his (hcfgv.trans hcfg) (hsame.trans hfrm) h
    | fault r => simp [execAll, hexec] at h
    | refused r => simp [execAll, hexec] at h

/-- Settles O38: `execAll_filter_instrChan` from one state. -/
theorem channelsAreIndependent : Obligations.ChannelsAreIndependent :=
  fun l _ _ ch hl h => execAll_filter_instrChan ch l hl rfl rfl h

/-! ### The accumulator (R21, R124) -/

theorem leafCrcs_eq_zero {ch : Chan} {leaf : LoopLeaf} (h : keepsCrc (leafInstr ch leaf) = true) : leafCrcs leaf = 0 := by
  cases leaf with
  | stdBadcrc | stdEmit _ => cases h
  | _ => rfl

theorem install_crcPair_zero (s : State) (ch : Chan) (f : Frm) : (s.install ch f 0).crcPair = s.crcPair := by
  rw [State.install_zero, State.crcPair, State.setFrm_crcLo, State.setFrm_crcHi, State.crcPair]

/-- Settles O14: of the operations on a framer only FRM.ADD, FRM.LOOP and the two leaves that test the trailer finish a CRC16
(`leafCrcs`); EXT and RESET do not touch the accumulator. -/
theorem crcPairWrittenOnlyByCrcSteps : Obligations.CrcPairWrittenOnlyByCrcSteps := by
  intro i s t hkeep h
  suffices hpair : t.crcPair = s.crcPair from ⟨congrArg Prod.fst hpair, congrArg Prod.snd hpair⟩
  cases hi : instrChan i with
  | some ch =>
    cases onFramer_of_instrChan hi with
    | add chunk => cases hkeep
    | loop => cases hkeep
    | evict =>
      by_cases hover : 131072 < (s.frm ch).buf.length
      · rw [exec_frmEvict_of_over hover] at h
        cases h
        exact install_crcPair_zero s ch _
      · rw [exec_frmEvict_of_le (Nat.not_lt.1 hover)] at h
        cases h
    | append chunk =>
      rw [exec_frmAppend] at h
      cases h
      exact install_crcPair_zero s ch _
    | search =>
      rw [exec_frmSearch] at h
      cases h
      rfl
    | take =>
      rw [exec_frmTake] at h
      cases h
      exact install_crcPair_zero s ch _
    | leaf l =>
      by_cases hsel : leafInstr ch l = leafInstr ch (s.leaf ch)
      · have hzero : leafCrcs (s.leaf ch) = 0 := leafCrcs_eq_zero (hsel ▸ hkeep)
        rw [hsel, exec_selected, State.runLeaf, hzero] at h
        cases h
        exact install_crcPair_zero s ch _
      · rw [exec_unselected hsel] at h
        cases h
  | none =>
    cases i with
    | crcInit | crcStep _ | crc16 _ => cases hkeep
    | frmAdd _ _ | frmEvict _ | frmAppend _ _ | frmLoop _ | frmSearch _ | frmWaitNocand _ | frmGarbage _ | frmXmWait _
    | frmXm128 _ | frmXm1k _ | frmStdWait8 _ | frmStdBadpar _ | frmStdWaitlen _ | frmStdBadcrc _ | frmStdEmit _ | frmTake _ =>
      cases hi
    | _ =>
      cases h
      rfl

/-! ### The XMODEM bookkeeping (R26, R27) -/

/-- A framer with its XMODEM bookkeeping blanked. -/
def Frm.blind (f : Frm) : Frm := { f with xmLast := none, xmGap := false, xmDup := false }

theorem Frm.blind_raise (f : Frm) (ch : Chan) (n : Nat) (r : Reason) :
    (f.raise ch n r).blind = (f.blind.raise ch n r).blind := rfl

theorem Frm.blind_evict (f : Frm) (ch : Chan) : (f.evict ch).blind = (f.blind.evict ch).blind := by
  rw [Frm.evict, Frm.evict, show f.blind.buf = f.buf from rfl]
  exact f.blind_raise ch _ _

/-- Two framers that differ in the bookkeeping at most. -/
def SameButXm (f g : Frm) : Prop := f.blind = g.blind

theorem sameButXm_of_blind (F : Frm → Frm) (hF : ∀ f, (F f).blind = (F f.blind).blind) {f g : Frm} (h : SameButXm f g) :
    SameButXm (F f) (F g) := by
  rw [SameButXm, hF f, hF g, h]

/-- FRM cannot see the bookkeeping: only `xmBlock` reads it, to write it again. -/
theorem frmCong_sameButXm : FrmCong SameButXm where
  buf {f g} h := (congrArg Frm.buf h : f.blind.buf = g.blind.buf)
  ready {f g} h := (congrArg Frm.ready h : f.blind.ready = g.blind.ready)
  act ch leaf := sameButXm_of_blind (·.act ch leaf) fun _ => by cases leaf <;> rfl
  append chunk := sameButXm_of_blind (·.append chunk) fun _ => rfl
  evict ch := sameButXm_of_blind (·.evict ch) fun f => f.blind_evict ch
  take := sameButXm_of_blind (fun f => { f with ready := [] }) fun _ => rfl

theorem blindXm_frm (s : State) (ch : Chan) : (blindXm s).frm ch = (s.frm ch).blind := by
  cases ch <;> rfl

theorem blindXm_install (s : State) (ch : Chan) (f : Frm) (n : Nat) :
    blindXm (s.install ch f n) = (blindXm s).install ch f.blind n := by
  induction n with
  | zero => cases ch <;> rfl
  | succ n ih => rw [State.install_succ, State.install_succ, ← ih]; rfl

theorem blindXm_returning (s : State) (r : Ret) : blindXm (s.returning r) = (blindXm s).returning r := rfl

/-- States equal up to the bookkeeping differ in the two framers alone. -/
theorem eq_withFrms_of_blindXm {s s' : State} (h : blindXm s = blindXm s') :
    s' = { s with frm0 := s'.frm0, frm1 := s'.frm1 } :=
  (congrArg (fun u : State => { u with frm0 := s'.frm0, frm1 := s'.frm1 }) h).symm

/-- Two outcomes that a host blind to the bookkeeping cannot tell apart. -/
def AlikeButXm (o o' : Host.Outcome State Fault Refusal) : Prop :=
  (∃ t t', o = .next t ∧ o' = .next t' ∧ blindXm t = blindXm t') ∨ ∃ r, o = .refused r ∧ o' = .refused r

/-- Every operation answers alike on states equal up to the bookkeeping: one on a framer by `exec_cong`; any other but RESET
does not see the framers; RESET empties them. -/
theorem exec_alikeButXm (i : Instr) {s s' : State} (h : blindXm s = blindXm s') : AlikeButXm (exec i s) (exec i s') := by
  have hfrm (ch : Chan) : (s.frm ch).blind = (s'.frm ch).blind := by rw [← blindXm_frm, ← blindXm_frm, h]
  cases hi : instrChan i with
  | some ch =>
    have hcfg : s.cfg = s'.cfg := (congrArg State.cfg h : (blindXm s).cfg = (blindXm s').cfg)
    rcases exec_cong frmCong_sameButXm hi hcfg (hfrm ch) with ⟨f, g, n, r, hfg, hs, hs'⟩ | hrefused
    · refine .inl ⟨_, _, hs, hs', ?_⟩
      rw [blindXm_returning, blindXm_returning, blindXm_install, blindXm_install, h, hfg]
    · exact .inr hrefused
  | none =>
    by_cases hreset : i = .reset
    · subst hreset
      exact .inl ⟨_, _, exec_reset s, exec_reset s',
        congrArg (fun u : State => { u with frm0 := Frm.reset, frm1 := Frm.reset, ret := .nothing }) h⟩
    · obtain ⟨t, ht, -, h0, h1, hframe⟩ := exec_of_instrChan_none hi hreset s
      have ht' := hframe s'.frm0 s'.frm1
      rw [← eq_withFrms_of_blindXm h] at ht'
      refine .inl ⟨_, _, ht, ht', ?_⟩
      change ({ t with frm0 := t.frm0.blind, frm1 := t.frm1.blind } : State) =
        { t with frm0 := s'.frm0.blind, frm1 := s'.frm1.blind }
      rw [h0, h1]
      exact congrArg₂ (fun f0 f1 => ({ t with frm0 := f0, frm1 := f1 } : State)) (hfrm .ch0) (hfrm .ch1)

/-- Settles O42: the two outcomes of `exec_alikeButXm`. -/
theorem xmodemBookkeepingIsInert : Obligations.XmodemBookkeepingIsInert := by
  intro i s s' h
  rcases exec_alikeButXm i h with ⟨t, t', ht, ht', hblind⟩ | ⟨r, hr, hr'⟩
  · refine ⟨fun u hu => ?_, fun r hr => ?_⟩
    · obtain rfl := Host.Outcome.next.inj (ht.symm.trans hu)
      exact ⟨t', ht', hblind⟩
    · rw [ht] at hr
      cases hr
  · refine ⟨fun u hu => ?_, fun q hq => ?_⟩
    · rw [hr] at hu
      cases hu
    · rw [← hq, hr, hr']

end Sys2Proof.Machine
end

section
/-! PROOFS. The CRC statements (40_crc.md): the step as a 16-bit update, the engine fed in parts, the last byte, and the default
tables. -/

namespace Sys2Proof.Machine

/-- Settles O7: CRC.STEP writes `crcUpdate`, whose halves are R121's two table reads. -/
theorem crcStepUpdatesAccumulator : Obligations.CrcStepUpdatesAccumulator :=
  fun s b => exec_crcStep b s

/-- Settles O8: CRC.OUT writes the returned value alone. -/
theorem crcOutReturnsPair : Obligations.CrcOutReturnsPair :=
  exec_crcOut

/-- The CRC of joined inputs goes on from the CRC of the first (R125). -/
theorem crc16_append (t : CrcTables) (a b : List Byte) : crc16 t (a ++ b) = b.foldl (crcUpdate t) (crc16 t a) := by
  simp only [crc16, List.foldl_append]

/-- Settles O10: the steps of `b` start from the CRC of `a` and leave that of `a ++ b` (`crc16_append`). -/
theorem crcStepsAreIncremental : Obligations.CrcStepsAreIncremental := by
  intro s a b
  have hsteps := execAll_crcSteps b (crc16 s.cfg.tables a) s
  rw [← crc16_append] at hsteps
  exact ⟨_, _, _, _, _, _, execAll_crcInit_crcSteps a s, hsteps, exec_crcOut _, rfl, exec_crc16 _ s, rfl⟩

/-! ### The 16-bit form (R121) -/

theorem getLsbD_be16 (a b : Byte) (i : Nat) : (be16 a b).getLsbD i = if i < 8 then b.getLsbD i else a.getLsbD (i - 8) :=
  BitVec.getLsbD_append

theorem extractLsb'_be16_xor (hi lo b : Byte) : (be16 hi lo ^^^ b.setWidth 16).extractLsb' 0 8 = lo ^^^ b := by
  refine BitVec.eq_of_getLsbD_eq fun i hi' => ?_
  have hi16 : i < 16 := by omega
  rw [BitVec.getLsbD_extractLsb', BitVec.getLsbD_xor, BitVec.getLsbD_xor, BitVec.getLsbD_setWidth, Nat.zero_add, getLsbD_be16]
  simp [hi', hi16]

theorem be16_ushiftRight (hi lo : Byte) : be16 hi lo >>> 8 = be16 0 hi := by
  refine BitVec.eq_of_getLsbD_eq fun i _ => ?_
  rw [BitVec.getLsbD_ushiftRight, getLsbD_be16, getLsbD_be16]
  by_cases h : i < 8
  · simp [h]
  · simpa [h] using BitVec.getLsbD_of_ge hi i (by omega)

theorem be16_xor (a b c d : Byte) : be16 a b ^^^ be16 c d = be16 (a ^^^ c) (b ^^^ d) := by
  refine BitVec.eq_of_getLsbD_eq fun i _ => ?_
  rw [BitVec.getLsbD_xor, getLsbD_be16, getLsbD_be16, getLsbD_be16]
  by_cases h : i < 8 <;> simp [h]

/-- Settles O11: T16's entry is the two tables' bytes at the same index, the high half above the low. -/
theorem crcStepIsSixteenBitUpdate : Obligations.CrcStepIsSixteenBitUpdate := by
  intro s t htab b
  refine ⟨_, exec_crcStep b s, ?_⟩
  rw [extractLsb'_be16_xor, be16_ushiftRight]
  obtain ⟨hA, hB⟩ := htab (s.crcLo ^^^ b)
  rw [← Sys2Proof.Laws.be16_be16Bytes (t (s.crcLo ^^^ b)), ← hA, ← hB, be16_xor]
  exact congrArg (be16 · _) BitVec.zero_xor.symm

/-! ### The last byte (R127) -/

/-- Over a pair of tables that tells indices apart, the step tells bytes apart. -/
theorem crcUpdate_injective {t : CrcTables}
    (ht : ∀ i j : Byte, tabAt t.a i = tabAt t.a j → tabAt t.b i = tabAt t.b j → i = j) (acc : Byte × Byte) {b b' : Byte}
    (h : crcUpdate t acc b = crcUpdate t acc b') : b = b' := by
  obtain ⟨hlo, hhi⟩ := Prod.mk.inj h
  exact (BitVec.xor_right_inj acc.1).1 (ht _ _ ((BitVec.xor_right_inj acc.2).1 hlo) hhi)

/-- Settles O13: the two inputs share the accumulator before the last step, which is injective (`crcUpdate_injective`). -/
theorem lastByteChangesCrc : Obligations.LastByteChangesCrc := by
  intro s ht bytes b b' hb
  refine ⟨_, _, _, _, _, _, exec_crc16 _ s, rfl, exec_crc16 _ s, rfl, fun h => hb ?_⟩
  have hcrc : crc16 s.cfg.tables (bytes ++ [b]) = crc16 s.cfg.tables (bytes ++ [b']) := h
  rw [crc16_append, crc16_append] at hcrc
  exact crcUpdate_injective ht _ hcrc

/-- Settles O12: 256 entries and one checksum, by evaluation. -/
theorem defaultTablesMatchPolynomial : Obligations.DefaultTablesMatchPolynomial := by
  constructor
  · decide +kernel
  · decide +kernel

end Sys2Proof.Machine
end

section
/-! PROOFS. The extractor's steps (42_extractor.md, 43_structured.md): the decoders by their kind, the selection by the tag, each
structured override where it applies and where it does not; and the statements about single steps settled with them. -/

namespace Sys2Proof.Machine

/-! ### EXT as a whole, identification, acknowledge -/

/-- Settles O56: every operation of EXT is a write of the record and the returned value. -/
theorem extractorTouchesOnlyItsRecord : Obligations.ExtractorTouchesOnlyItsRecord := by
  intro i s hi
  cases i with
  | crcInit | crcStep _ | crcOut | crc16 _ | reset => cases hi
  | frmAdd _ _ | frmEvict _ | frmAppend _ _ | frmLoop _ | frmSearch _ | frmWaitNocand _ | frmGarbage _ | frmXmWait _
  | frmXm128 _ | frmXm1k _ | frmStdWait8 _ | frmStdBadpar _ | frmStdWaitlen _ | frmStdBadcrc _ | frmStdEmit _ | frmTake _ =>
    cases hi
  | _ => exact ⟨_, _, rfl⟩

theorem outSubid_of_le (cfg : Params) {p : List Byte} (h : 2 ≤ p.length) (o : ExtOut) :
    outSubid cfg p o = { o with
      subId := be16 (byteAt p 0) (byteAt p 1)
      subIdValid := true
      cls := classOf cfg (be16 (byteAt p 0) (byteAt p 1)) } :=
  if_pos h

theorem outSubid_of_lt (cfg : Params) {p : List Byte} (h : p.length < 2) (o : ExtOut) :
    outSubid cfg p o = { o with subId := 0, subIdValid := false, cls := .none } :=
  if_neg (Nat.not_le.2 h)

theorem outValreq_of_not {t : Byte} {n : Nat} (h : ¬(t = 1 ∧ n = 2)) (o : ExtOut) : outValreq t n o = o :=
  if_neg h

/-- EXT.VALREQ writes `value` at most. -/
theorem outValreq_cases (t : Byte) (n : Nat) (o : ExtOut) : ∃ v, outValreq t n o = { o with value := v } := by
  unfold outValreq
  split
  · exact ⟨_, rfl⟩
  · exact ⟨o.value, rfl⟩

theorem outAck_of_ack {p : List Byte} (h : 4 ≤ p.length) (o : ExtOut) :
    outAck 3 p o = { o with value := .ackst (ackOk (be16 (byteAt p 2) (byteAt p 3))) (be16 (byteAt p 2) (byteAt p 3)) } :=
  if_pos ⟨rfl, h⟩

theorem outAck_of_not {t : Byte} {p : List Byte} (h : t ≠ 3 ∨ p.length < 4) (o : ExtOut) : outAck t p o = o :=
  if_neg fun hack => h.elim (· hack.1) (by have := hack.2; omega)

/-- EXT.ACK writes `value` at most. -/
theorem outAck_cases (t : Byte) (p : List Byte) (o : ExtOut) : ∃ v, outAck t p o = { o with value := v } := by
  unfold outAck
  split
  · exact ⟨_, rfl⟩
  · exact ⟨o.value, rfl⟩

/-- A step that leaves EXT's record as it is changes the returned value alone. -/
theorem extStep_of_eq {s : State} {o : ExtOut} (h : o = s.ext) : s.extStep o = s.returning .nothing := by
  rw [h]
  rfl

/-- Settles O43: the three steps, each on the sides of its test. -/
theorem identificationSteps : Obligations.IdentificationSteps := by
  refine ⟨fun s p h => ?_, fun s p h => ?_, fun s => ?_, fun s => ?_, fun s t n h => ?_⟩
  · rw [exec_extSubid, outSubid_of_le _ h]
    rfl
  · rw [exec_extSubid, outSubid_of_lt _ h]
    rfl
  · exact exec_extExclude s
  · exact exec_extValreq 1 2 s
  · have hn : ¬(t = 1 ∧ n.toNat = 2) := fun ht => h ⟨ht.1, BitVec.eq_of_toNat_eq ht.2⟩
    rw [exec_extValreq, extStep_of_eq (outValreq_of_not hn _)]
    rfl

/-- Settles O49: EXT.ACK on the two sides of its test. -/
theorem ackReplacesValue : Obligations.AckReplacesValue := by
  intro s i1 i0 c1 c0 rest
  refine ⟨?_, fun t p h => ?_⟩
  · rw [exec_extAck, outAck_of_ack (by simp)]
    rfl
  · rw [exec_extAck, extStep_of_eq (outAck_of_not h _)]
    rfl

/-! ### The decoders (R185 to R191) and their fallback (R192) -/

/-- The operation of a kind is its decoder, with the tag number the parameters give the kind. -/
theorem exec_kindInstr (k : TagKind) (sub : Half) (v : List Byte) (s : State) :
    exec (kindInstr sub v k) s = .next (s.extStep (outGeneric k (tagByte s.cfg.wire k) v s.ext)) := by
  cases k <;> rfl

theorem exec_extRaw (sub : Half) (g : Byte) (v : List Byte) (s : State) :
    exec (.extRaw sub g v) s = .next (s.extStep (outRaw g v s.ext)) := rfl

theorem exec_extTrunc (p : List Byte) (s : State) : exec (.extTrunc p) s = .next (s.extStep (outTrunc s.ext)) := rfl

theorem outGeneric_of_some {k : TagKind} {v : List Byte} {r : Generic} (h : genericOf k v = some r) (g : Byte) (o : ExtOut) :
    outGeneric k g v o = { o with generic := some r, value := .gen r } := by
  rw [outGeneric, h]

theorem outGeneric_of_none {k : TagKind} {v : List Byte} (h : genericOf k v = none) (g : Byte) (o : ExtOut) :
    outGeneric k g v o = { o with generic := none, value := .raw (g :: v) } := by
  rw [outGeneric, h, outRaw]

theorem exec_kindInstr_of_some {k : TagKind} {v : List Byte} {r : Generic} (h : genericOf k v = some r) (sub : Half)
    (s : State) :
    exec (kindInstr sub v k) s =
      .next { s with ret := .nothing, ext := { s.ext with generic := some r, value := .gen r } } := by
  rw [exec_kindInstr, outGeneric_of_some h]
  rfl

theorem exec_kindInstr_of_none {k : TagKind} {v : List Byte} (h : genericOf k v = none) (sub : Half) (s : State) :
    exec (kindInstr sub v k) s =
      .next { s with ret := .nothing, ext := { s.ext with generic := none, value := .raw (tagByte s.cfg.wire k :: v) } } := by
  rw [exec_kindInstr, outGeneric_of_none h]
  rfl

/-- Settles O44: each scalar reads its bytes at the head of the value, or finds it too short. -/
theorem scalarDecoders : Obligations.ScalarDecoders := by
  intro s sub a b c d v w done raw
  refine ⟨exec_kindInstr_of_some (k := .uint8) ?_ sub s, exec_kindInstr_of_none (k := .uint8) rfl sub s,
    exec_kindInstr_of_some (k := .uint16) ?_ sub s, fun h => exec_kindInstr_of_none (k := .uint16) ?_ sub s,
    exec_kindInstr_of_some (k := .uint32) ?_ sub s, fun h => exec_kindInstr_of_none (k := .uint32) ?_ sub s,
    exec_kindInstr_of_some (k := .void) rfl sub s, exec_kindInstr_of_some (k := .bool) ?_ sub s,
    exec_kindInstr_of_none (k := .bool) rfl sub s⟩
  · simp [genericOf, byteAt]
  · simp [genericOf, byteAt]
  · exact if_neg (Nat.not_le.2 h)
  · simp [genericOf, byteAt]
  · exact if_neg (Nat.not_le.2 h)
  · simp [genericOf, byteAt]

theorem be16_byteAt_be16Bytes (h : Half) (rest : List Byte) :
    be16 (byteAt (be16Bytes h ++ rest) 0) (byteAt (be16Bytes h ++ rest) 1) = h :=
  Sys2Proof.Laws.be16_be16Bytes h

/-- A blob behind its length is read back, whatever follows it (R90, D18). -/
theorem blobOf_be16Bytes {b : List Byte} (h : b.length ≤ 65535) (rest : List Byte) :
    blobOf (be16Bytes (BitVec.ofNat 16 b.length) ++ b ++ rest) = some b := by
  have hn : (BitVec.ofNat 16 b.length).toNat = b.length := Nat.mod_eq_of_lt (Nat.lt_succ_of_le h)
  rw [blobOf_eq_some_iff, List.append_assoc, be16_byteAt_be16Bytes, hn]
  simp [be16Bytes, slice, Nat.add_comm 2]

theorem blobOf_eq_none {v : List Byte} (h : v.length < 2 ∨ v.length < 2 + (be16 (byteAt v 0) (byteAt v 1)).toNat) :
    blobOf v = none := by
  rw [Option.eq_none_iff_forall_ne_some]
  intro b hb
  obtain ⟨h2, hn, -⟩ := (blobOf_eq_some_iff v b).1 hb
  omega

theorem isAscii_eq (b : List Byte) : isAscii b = decide (∀ x ∈ b, x.toNat ≤ 0x7F) := by
  simp [isAscii, List.all_eq, BitVec.le_def]

/-- Settles O45: a blob is read behind its length (`blobOf_be16Bytes`) or found too short (`blobOf_eq_none`). -/
theorem blobDecoders : Obligations.BlobDecoders := by
  intro s sub raw
  constructor
  · intro b rest h v ok
    have hblob : blobOf v = some b := blobOf_be16Bytes h rest
    have hok : isAscii b = ok := isAscii_eq b
    exact ⟨exec_kindInstr_of_some (k := .blob1) (by rw [genericOf, hblob, Option.map_some, hok]) sub s,
      exec_kindInstr_of_some (k := .blob2) (by rw [genericOf, hblob, Option.map_some]) sub s⟩
  · intro v h
    have hblob : blobOf v = none := blobOf_eq_none h
    exact ⟨exec_kindInstr_of_none (k := .blob1) (by rw [genericOf, hblob, Option.map_none]) sub s,
      exec_kindInstr_of_none (k := .blob2) (by rw [genericOf, hblob, Option.map_none]) sub s⟩

/-- Settles O46: EXT.TRUNC on the two sides of its test for VALREQ; EXT.RAW has none. -/
theorem fallbacksShowRawOrTrunc : Obligations.FallbacksShowRawOrTrunc := by
  refine fun s => ⟨fun sub g v => exec_extRaw sub g v s, fun p => ⟨fun h => ?_, fun h => ?_⟩⟩
  · rw [exec_extTrunc, outTrunc, if_pos h, ← h]
    rfl
  · rw [exec_extTrunc, outTrunc, if_neg h]
    rfl

/-! ### Selection by the tag (R184) -/

theorem tagByte_of_tagKind {w : WireParams} {g : Byte} {k : TagKind} (h : tagKind w g = some k) : tagByte w k = g :=
  beq_iff_eq.1 (List.find?_some (p := fun k => tagByte w k == g) h)

/-- EXT.TAG on a payload with an id, a tag and a value. -/
theorem outTag_payloadBytes (cfg : Params) (sub : Half) (g : Byte) (v : List Byte) (o : ExtOut) :
    outTag cfg (payloadBytes sub g v) o =
      (tagKind cfg.wire g).elim (outRaw g v o) fun k => outGeneric k g v o := by
  have hlen : ¬ (payloadBytes sub g v).length < 3 := by simp [payloadBytes, be16Bytes]
  have htag : byteAt (payloadBytes sub g v) 2 = g := rfl
  have hval : (payloadBytes sub g v).drop 3 = v := rfl
  rw [outTag, if_neg hlen, htag, hval]
  cases tagKind cfg.wire g with
  | none => rfl
  | some k => exact congrFun (congrFun (congrFun (outKind_eq k) g) v) o

theorem exec_extTag_of_kind {s : State} {g : Byte} {k : TagKind} (h : tagKind s.cfg.wire g = some k) (sub : Half)
    (v : List Byte) : exec (.extTag (payloadBytes sub g v)) s = exec (kindInstr sub v k) s := by
  rw [exec_extTag, outTag_payloadBytes, h, exec_kindInstr, tagByte_of_tagKind h]
  rfl

theorem exec_extTag_of_no_kind {s : State} {g : Byte} (h : tagKind s.cfg.wire g = none) (sub : Half) (v : List Byte) :
    exec (.extTag (payloadBytes sub g v)) s = exec (.extRaw sub g v) s := by
  rw [exec_extTag, outTag_payloadBytes, h, exec_extRaw]
  rfl

theorem tagKind_defaultWire (k : TagKind) : tagKind defaultWire (tagByte defaultWire k) = some k := by
  cases k <;> rfl

/-- The default tag numbers end at 6 (D15). -/
theorem tagKind_defaultWire_eq_none {g : Byte} (h : 6 < g.toNat) : tagKind defaultWire g = none := by
  cases hk : tagKind defaultWire g with
  | none => rfl
  | some k =>
    obtain rfl := tagByte_of_tagKind hk
    cases k <;> exact absurd h (by decide)

/-- Settles O47: the seven default tag numbers select their kinds, no other byte selects one. -/
theorem tagDispatch : Obligations.TagDispatch := by
  intro s hwire
  refine ⟨fun sub v => ?_, fun p h => ?_, fun p => ⟨_, exec_extTag p s⟩⟩
  · have hkind (k : TagKind) :
        exec (.extTag (payloadBytes sub (tagByte defaultWire k) v)) s = exec (kindInstr sub v k) s :=
      exec_extTag_of_kind (by rw [hwire, tagKind_defaultWire]) sub v
    exact ⟨hkind .uint8, hkind .uint16, hkind .uint32, hkind .void, hkind .bool, hkind .blob1, hkind .blob2,
      fun g hg => exec_extTag_of_no_kind (by rw [hwire, tagKind_defaultWire_eq_none hg]) sub v⟩
  · rw [exec_extTag, outTag, if_pos h, exec_extTrunc]

end Sys2Proof.Machine
end

section
/-! PROOFS. The structured layouts (43_structured.md): each override where it applies and where it does not, the records and rows
of a blob; EXT.DECODE as a whole; and the statements settled with them, the end-to-end one last. -/

namespace Sys2Proof.Machine

/-! ### The overrides, each where it applies and where it does not (R221 to R228) -/

theorem outTrack_of_blob (cfg : Params) {o : ExtOut} {b : List Byte} (hb : blobBytes o.generic = some b) (hc : o.cls = .track)
    (h1 : 1 ≤ b.length) :
    outTrack cfg 5 o = { o with detail := o.detail ++ [.track (byteAt b 0) (targetsOf cfg.wire b)] } := by
  rw [outTrack, hb]
  exact if_pos ⟨rfl, hc, h1⟩

theorem outTrack_of_other (cfg : Params) {t : Byte} {o : ExtOut}
    (h : ¬(t = 5 ∧ o.cls = .track ∧ ∃ b, blobBytes o.generic = some b ∧ 1 ≤ b.length)) : outTrack cfg t o = o := by
  unfold outTrack
  split
  · exact if_neg fun ⟨ht, hc, h1⟩ => h ⟨ht, hc, _, ‹_›, h1⟩
  · rfl

theorem outZoneMotion_of_word {o : ExtOut} {w : Half} (hc : o.cls = .zoneMotion) (hg : o.generic = some (.u16 w)) :
    outZoneMotion o = { o with value := .zonest (zoneHigh w) (zoneLow w) } := by
  rw [outZoneMotion, hc, hg]

theorem outZoneMotion_of_other {o : ExtOut} (h : ¬(o.cls = .zoneMotion ∧ ∃ w, o.generic = some (.u16 w))) :
    outZoneMotion o = o := by
  unfold outZoneMotion
  split
  · exact absurd ⟨‹_›, _, ‹_›⟩ h
  · rfl

theorem outZonePresence_of_word {o : ExtOut} {w : Half} (hc : o.cls = .zonePresence) (hg : o.generic = some (.u16 w)) :
    outZonePresence o = { o with value := .zoneocc (zoneHigh w) (zoneLow w) (occupiedFlag (zoneLow w)) } := by
  rw [outZonePresence, hc, hg]

theorem outZonePresence_of_other {o : ExtOut} (h : ¬(o.cls = .zonePresence ∧ ∃ w, o.generic = some (.u16 w))) :
    outZonePresence o = o := by
  unfold outZonePresence
  split
  · exact absurd ⟨‹_›, _, ‹_›⟩ h
  · rfl

theorem outZoneEnum_of_word {o : ExtOut} {w : Half} (hc : isZoneEnum o.cls = true) (hg : o.generic = some (.u16 w)) :
    outZoneEnum o = { o with value := .zoneenum (zoneHigh w) (zoneLow w) } := by
  rw [outZoneEnum, hc, hg]

theorem outZoneEnum_of_other {o : ExtOut} (h : ¬(isZoneEnum o.cls = true ∧ ∃ w, o.generic = some (.u16 w))) :
    outZoneEnum o = o := by
  unfold outZoneEnum
  split
  · exact absurd ⟨‹_›, _, ‹_›⟩ h
  · rfl

theorem outBitmap_of_blob {o : ExtOut} {b : List Byte} (hb : blobBytes o.generic = some b) (hc : o.cls = .bitmap)
    (hlen : b.length = 40) : outBitmap o = { o with detail := o.detail ++ [.bitmap none (rowsOf b)] } := by
  simp only [outBitmap, hb]
  exact if_pos ⟨hc, hlen⟩

theorem outBitmap_of_other {o : ExtOut} (h : ¬(o.cls = .bitmap ∧ ∃ b, blobBytes o.generic = some b ∧ b.length = 40)) :
    outBitmap o = o := by
  unfold outBitmap
  split
  · exact if_neg fun ⟨hc, hlen⟩ => h ⟨hc, _, ‹_›, hlen⟩
  · rfl

theorem outBitmapZone_of_blob {o : ExtOut} {b : List Byte} (hb : blobBytes o.generic = some b) (hc : o.cls = .bitmapZone)
    (hlen : b.length = 41) :
    outBitmapZone o = { o with detail := o.detail ++ [.bitmap (some (byteAt b 0)) (rowsOf (b.drop 1))] } := by
  simp only [outBitmapZone, hb]
  exact if_pos ⟨hc, hlen⟩

theorem outBitmapZone_of_other {o : ExtOut}
    (h : ¬(o.cls = .bitmapZone ∧ ∃ b, blobBytes o.generic = some b ∧ b.length = 41)) : outBitmapZone o = o := by
  unfold outBitmapZone
  split
  · exact if_neg fun ⟨hc, hlen⟩ => h ⟨hc, _, ‹_›, hlen⟩
  · rfl

theorem outLrrev_of_code {o : ExtOut} {code : Long} (hc : o.cls = .lrrev) (hg : intCode o.generic = some code) :
    outLrrev o = { o with value := .enum code } := by
  rw [outLrrev, hc, hg]

theorem outLrrev_of_other {o : ExtOut} (h : ¬(o.cls = .lrrev ∧ ∃ code, intCode o.generic = some code)) : outLrrev o = o := by
  unfold outLrrev
  split
  · exact absurd ⟨‹_›, _, ‹_›⟩ h
  · rfl

theorem outMount_of_code {o : ExtOut} {code : Long} (hc : o.cls = .mount) (hg : intCode o.generic = some code) :
    outMount o = { o with value := .enum code } := by
  rw [outMount, hc, hg]

theorem outMount_of_other {o : ExtOut} (h : ¬(o.cls = .mount ∧ ∃ code, intCode o.generic = some code)) : outMount o = o := by
  unfold outMount
  split
  · exact absurd ⟨‹_›, _, ‹_›⟩ h
  · rfl

/-! ### Blocks of equal length in a row -/

theorem byteAt_drop (l : List Byte) (a j : Nat) : byteAt (l.drop a) j = byteAt l (a + j) := by
  simp [byteAt]

theorem drop_flatMap {α : Type} {f : α → List Byte} {n : Nat} (hf : ∀ x, (f x).length = n) (l : List α) (i : Nat) :
    (l.flatMap f).drop (n * i) = (l.drop i).flatMap f := by
  induction l generalizing i with
  | nil => simp
  | cons x xs ih =>
    cases i with
    | zero => rfl
    | succ i =>
      rw [List.flatMap_cons, Nat.mul_succ, Nat.add_comm, ← List.drop_drop, List.drop_left' (hf x), ih, List.drop_succ_cons]

/-- Block `i` of blocks of length `n` in a row, whatever follows them. -/
theorem drop_flatMap_append {α : Type} {f : α → List Byte} {n : Nat} (hf : ∀ x, (f x).length = n) {l : List α} {i : Nat}
    (hi : i < l.length) (rest : List Byte) :
    (l.flatMap f ++ rest).drop (n * i) = f l[i] ++ ((l.drop (i + 1)).flatMap f ++ rest) := by
  have hlen : n * i ≤ (l.flatMap f).length := by
    have hsum : (l.flatMap f).length = l.length * n := by simp [List.length_flatMap, hf]
    rw [hsum, Nat.mul_comm]
    exact Nat.mul_le_mul_right n hi.le
  rw [List.drop_append_of_le_length hlen, drop_flatMap hf, List.drop_eq_getElem_cons hi, List.flatMap_cons, List.append_assoc]

/-- The 20 words written are the rows read (R92). -/
theorem rowsOf_flatMap_be16Bytes {rows : List Half} (h : rows.length = 20) : rowsOf (rows.flatMap be16Bytes) = rows := by
  apply List.ext_getElem
  · simp [rowsOf, h]
  · intro r _ hr
    have hblock := drop_flatMap_append (f := be16Bytes) (n := 2) (fun _ => rfl) hr []
    rw [List.append_nil] at hblock
    simp only [rowsOf, List.getElem_map, List.getElem_range]
    rw [← Nat.add_zero (2 * r), Nat.add_assoc, Nat.zero_add, ← byteAt_drop, ← byteAt_drop, hblock, be16_byteAt_be16Bytes]

/-- A target record whose fields fit is read back from its 14 bytes (R93). -/
theorem targetOf_targetBytes {w : WireParams} (hbig : w.trackBigEndian = true) {t : Target} (ht : TargetFits t) :
    targetOf w (targetBytes t) = t := by
  obtain ⟨hid, hx, hy, hz, hv⟩ := ht
  have hhalf (h : Half) : trackHalf w (h.extractLsb' 8 8) (h.extractLsb' 0 8) = h :=
    (if_pos hbig).trans (Sys2Proof.Laws.be16_be16Bytes h)
  have hint {n : Nat} (hn : 0 < n) {z : Int} (hz : fitsInt n z) : (BitVec.ofInt n z).toInt = z :=
    BitVec.toInt_ofInt_eq_self hn hz.1 hz.2
  simp only [targetOf, targetBytes, be16Bytes, byteAt, List.cons_append, List.nil_append, List.getD_cons_succ,
    List.getD_cons_zero, hhalf]
  rw [hint (by decide) hid, hint (by decide) hx, hint (by decide) hy, hint (by decide) hz, hint (by decide) hv]

/-- The records of a blob of complete records and less than one more (R221). -/
theorem targetsOf_eq_take {w : WireParams} (hbig : w.trackBigEndian = true) (count : Byte) {recs : List Target}
    (hrecs : ∀ r ∈ recs, TargetFits r) {surplus : List Byte} (hsurplus : surplus.length < 14) :
    targetsOf w (count :: (recs.flatMap targetBytes ++ surplus)) = recs.take count.toNat := by
  have hlen : (recs.flatMap targetBytes).length = 14 * recs.length := by
    simp [List.length_flatMap, targetBytes, be16Bytes, Nat.mul_comm]
  have hcount : targetCount (count :: (recs.flatMap targetBytes ++ surplus)) = min count.toNat recs.length := by
    have hdiv : (14 * recs.length + surplus.length) / 14 = recs.length := by omega
    simp only [targetCount, byteAt, List.getD_cons_zero, List.length_cons, List.length_append, hlen, Nat.add_sub_cancel, hdiv]
  apply List.ext_getElem
  · simp [targetsOf, hcount]
  · intro i _ hi
    have hi' : i < recs.length := by rw [List.length_take] at hi; omega
    have hblock := drop_flatMap_append (f := targetBytes) (n := 14) (fun _ => rfl) hi' surplus
    have hslice : slice (count :: (recs.flatMap targetBytes ++ surplus)) (1 + 14 * i) (1 + 14 * i + 14) =
        targetBytes recs[i] := by
      rw [slice, List.drop_take, Nat.add_comm 1, List.drop_succ_cons, hblock, Nat.add_sub_cancel_left]
      exact List.take_left' rfl
    simp only [targetsOf, List.getElem_map, List.getElem_range, config_trackRec, hslice, List.getElem_take]
    exact targetOf_targetBytes hbig (hrecs _ (List.getElem_mem hi'))

/-! ### The statements about single overrides -/

/-- Settles O50: the blob of either kind holds the records `targetsOf_eq_take` reads. -/
theorem trackExtractsRecords : Obligations.TrackExtractsRecords := by
  refine ⟨?_, fun s t h => ?_⟩
  · intro s count recs surplus ok hbig hcls hrecs hsurplus b hgen
    have hb : blobBytes s.ext.generic = some b := by
      rcases hgen with h | h <;> rw [h] <;> rfl
    rw [exec_extTrack, outTrack_of_blob _ hb hcls (by simp [b]), targetsOf_eq_take hbig count hrecs hsurplus]
    rfl
  · have hnot : ¬(t = 5 ∧ s.ext.cls = .track ∧ ∃ b, blobBytes s.ext.generic = some b ∧ 1 ≤ b.length) := by
      rintro ⟨ht, hc, b, hb, h1⟩
      rcases h with h | h | h | h
      · exact h ht
      · exact h hc
      · simp [h] at hb
      · obtain rfl : [] = b := Option.some.inj (h.symm.trans hb)
        simp at h1
    rw [exec_extTrack, extStep_of_eq (outTrack_of_other _ hnot)]
    rfl

theorem zoneHigh_be16 (z l : Byte) : zoneHigh (be16 z l) = z := BitVec.extractLsb'_append_eq_left

theorem zoneLow_be16 (z l : Byte) : zoneLow (be16 z l) = l := BitVec.extractLsb'_append_eq_right

theorem isZoneEnum_iff (c : LayoutClass) : isZoneEnum c = true ↔ c = .zoneSens ∨ c = .zoneType ∨ c = .zoneCloseAway := by
  simp [isZoneEnum, or_assoc]

/-- Settles O51: the zone and the low byte are the halves of the word. -/
theorem zoneWordsAreSplit : Obligations.ZoneWordsAreSplit := by
  intro s
  have hno {c : Prop} (h : (∀ w : Half, s.ext.generic ≠ some (.u16 w)) ∨ ¬c) : ¬(c ∧ ∃ w, s.ext.generic = some (.u16 w)) :=
    fun ⟨hc, w, hg⟩ => h.elim (fun hw => hw w hg) (fun hn => hn hc)
  refine ⟨fun z l hg => ⟨fun hc => ?_, fun hc => ?_, fun hc => ?_⟩, fun h => ?_, fun h => ?_, fun h => ?_⟩
  · rw [exec_extZoneMotion, outZoneMotion_of_word hc hg, zoneHigh_be16, zoneLow_be16]
    rfl
  · rw [exec_extZonePresence, outZonePresence_of_word hc hg, zoneHigh_be16, zoneLow_be16]
    rfl
  · rw [exec_extZoneEnum, outZoneEnum_of_word ((isZoneEnum_iff _).2 hc) hg, zoneHigh_be16, zoneLow_be16]
    rfl
  · rw [exec_extZoneMotion, extStep_of_eq (outZoneMotion_of_other (hno h))]
    rfl
  · rw [exec_extZonePresence, extStep_of_eq (outZonePresence_of_other (hno h))]
    rfl
  · have hclass := h.imp_right fun hc => mt (isZoneEnum_iff s.ext.cls).1 (by simpa [not_or] using hc)
    rw [exec_extZoneEnum, extStep_of_eq (outZoneEnum_of_other (hno hclass))]
    rfl

theorem length_flatMap_be16Bytes (rows : List Half) : (rows.flatMap be16Bytes).length = 2 * rows.length := by
  simp [List.length_flatMap, be16Bytes, Nat.mul_comm]

/-- Settles O52: a blob of 20 words is read back as its rows (`rowsOf_flatMap_be16Bytes`). -/
theorem bitmapsAreExtracted : Obligations.BitmapsAreExtracted := by
  intro s
  have hno {c : LayoutClass} {n : Nat} (h : s.ext.cls ≠ c ∨ blobBytes s.ext.generic = none ∨
      ∃ b, blobBytes s.ext.generic = some b ∧ b.length ≠ n) :
      ¬(s.ext.cls = c ∧ ∃ b, blobBytes s.ext.generic = some b ∧ b.length = n) := by
    rintro ⟨hc, b, hb, hlen⟩
    rcases h with h | h | ⟨b', hb', hlen'⟩
    · exact h hc
    · simp [h] at hb
    · obtain rfl := Option.some.inj (hb'.symm.trans hb)
      exact hlen' hlen
  refine ⟨fun rows hrows hb hc => ?_, fun z rows hrows hb hc => ?_, fun h => ?_, fun h => ?_⟩
  · rw [exec_extBitmap, outBitmap_of_blob hb hc (by rw [length_flatMap_be16Bytes, hrows]), rowsOf_flatMap_be16Bytes hrows]
    rfl
  · rw [exec_extBitmapZone, outBitmapZone_of_blob hb hc (by rw [List.length_cons, length_flatMap_be16Bytes, hrows]),
      List.drop_succ_cons, List.drop_zero, rowsOf_flatMap_be16Bytes hrows]
    rfl
  · rw [exec_extBitmap, extStep_of_eq (outBitmap_of_other (hno h))]
    rfl
  · rw [exec_extBitmapZone, extStep_of_eq (outBitmapZone_of_other (hno h))]
    rfl

/-- Settles O53: the three widths have one code (`intCode`), and the label is a function of class and code. -/
theorem enumCodesAreShown : Obligations.EnumCodesAreShown := by
  intro s
  have hno {c : LayoutClass} (h : s.ext.cls ≠ c ∨ intCode s.ext.generic = none) :
      ¬(s.ext.cls = c ∧ ∃ code, intCode s.ext.generic = some code) := by
    rintro ⟨hc, code, hcode⟩
    exact h.elim (· hc) fun hn => by simp [hn] at hcode
  refine ⟨fun code hgen => ?_, fun h => ?_, fun h => ?_, fun cfg o code hval => ⟨fun hc => ?_, fun hc => ?_⟩⟩
  · have hcode : intCode s.ext.generic = some code := by
      rcases hgen with ⟨v, hg, rfl⟩ | ⟨v, hg, rfl⟩ | hg <;> rw [hg] <;> rfl
    refine ⟨fun hc => ?_, fun hc => ?_⟩
    · rw [exec_extLrrev, outLrrev_of_code hc hcode]
      rfl
    · rw [exec_extMount, outMount_of_code hc hcode]
      rfl
  · rw [exec_extLrrev, extStep_of_eq (outLrrev_of_other (hno h))]
    rfl
  · rw [exec_extMount, extStep_of_eq (outMount_of_other (hno h))]
    rfl
  · rw [valueLabel, hval, hc]
    rfl
  · rw [valueLabel, hval, hc]
    rfl

/-! ### The overrides in a row: they write `value` and `detail` alone -/

/-- A step writes `value` and `detail` alone, and does not see the kind of the frame's type. -/
def WritesShown (F : ExtOut → ExtOut) : Prop :=
  ∀ o : ExtOut, ∃ v d, ∀ k, F { o with tkind := k } = { o with tkind := k, value := v, detail := d }

theorem WritesShown.comp {F G : ExtOut → ExtOut} (hF : WritesShown F) (hG : WritesShown G) : WritesShown fun o => F (G o) := by
  intro o
  obtain ⟨v, d, hGo⟩ := hG o
  obtain ⟨v', d', hFo⟩ := hF { o with value := v, detail := d }
  exact ⟨v', d', fun k => (congrArg F (hGo k)).trans (hFo k)⟩

theorem writesShown_outTrack (cfg : Params) (t : Byte) : WritesShown (outTrack cfg t) := by
  intro o
  by_cases h : t = 5 ∧ o.cls = .track ∧ ∃ b, blobBytes o.generic = some b ∧ 1 ≤ b.length
  · obtain ⟨rfl, hc, b, hb, h1⟩ := h
    exact ⟨o.value, o.detail ++ [.track (byteAt b 0) (targetsOf cfg.wire b)], fun k =>
      outTrack_of_blob cfg (o := { o with tkind := k }) hb hc h1⟩
  · exact ⟨_, _, fun k => outTrack_of_other cfg (o := { o with tkind := k }) h⟩

theorem writesShown_outZoneMotion : WritesShown outZoneMotion := by
  intro o
  by_cases h : o.cls = .zoneMotion ∧ ∃ w, o.generic = some (.u16 w)
  · obtain ⟨hc, w, hg⟩ := h
    exact ⟨_, _, fun k => outZoneMotion_of_word (o := { o with tkind := k }) hc hg⟩
  · exact ⟨_, _, fun k => outZoneMotion_of_other (o := { o with tkind := k }) h⟩

theorem writesShown_outZonePresence : WritesShown outZonePresence := by
  intro o
  by_cases h : o.cls = .zonePresence ∧ ∃ w, o.generic = some (.u16 w)
  · obtain ⟨hc, w, hg⟩ := h
    exact ⟨_, _, fun k => outZonePresence_of_word (o := { o with tkind := k }) hc hg⟩
  · exact ⟨_, _, fun k => outZonePresence_of_other (o := { o with tkind := k }) h⟩

theorem writesShown_outZoneEnum : WritesShown outZoneEnum := by
  intro o
  by_cases h : isZoneEnum o.cls = true ∧ ∃ w, o.generic = some (.u16 w)
  · obtain ⟨hc, w, hg⟩ := h
    exact ⟨_, _, fun k => outZoneEnum_of_word (o := { o with tkind := k }) hc hg⟩
  · exact ⟨_, _, fun k => outZoneEnum_of_other (o := { o with tkind := k }) h⟩

theorem writesShown_outBitmap : WritesShown outBitmap := by
  intro o
  by_cases h : o.cls = .bitmap ∧ ∃ b, blobBytes o.generic = some b ∧ b.length = 40
  · obtain ⟨hc, b, hb, hlen⟩ := h
    exact ⟨o.value, o.detail ++ [.bitmap none (rowsOf b)], fun k => outBitmap_of_blob (o := { o with tkind := k }) hb hc hlen⟩
  · exact ⟨_, _, fun k => outBitmap_of_other (o := { o with tkind := k }) h⟩

theorem writesShown_outBitmapZone : WritesShown outBitmapZone := by
  intro o
  by_cases h : o.cls = .bitmapZone ∧ ∃ b, blobBytes o.generic = some b ∧ b.length = 41
  · obtain ⟨hc, b, hb, hlen⟩ := h
    exact ⟨o.value, o.detail ++ [.bitmap (some (byteAt b 0)) (rowsOf (b.drop 1))], fun k =>
      outBitmapZone_of_blob (o := { o with tkind := k }) hb hc hlen⟩
  · exact ⟨_, _, fun k => outBitmapZone_of_other (o := { o with tkind := k }) h⟩

theorem writesShown_outLrrev : WritesShown outLrrev := by
  intro o
  by_cases h : o.cls = .lrrev ∧ ∃ code, intCode o.generic = some code
  · obtain ⟨hc, code, hg⟩ := h
    exact ⟨_, _, fun k => outLrrev_of_code (o := { o with tkind := k }) hc hg⟩
  · exact ⟨_, _, fun k => outLrrev_of_other (o := { o with tkind := k }) h⟩

theorem writesShown_outMount : WritesShown outMount := by
  intro o
  by_cases h : o.cls = .mount ∧ ∃ code, intCode o.generic = some code
  · obtain ⟨hc, code, hg⟩ := h
    exact ⟨_, _, fun k => outMount_of_code (o := { o with tkind := k }) hc hg⟩
  · exact ⟨_, _, fun k => outMount_of_other (o := { o with tkind := k }) h⟩

theorem writesShown_outOverrides (cfg : Params) (t : Byte) : WritesShown (outOverrides cfg t) :=
  writesShown_outMount.comp <| writesShown_outLrrev.comp <| writesShown_outZoneEnum.comp <|
    writesShown_outBitmapZone.comp <| writesShown_outBitmap.comp <| writesShown_outZonePresence.comp <|
    writesShown_outZoneMotion.comp <| writesShown_outTrack cfg t

/-- Of the overrides only EXT.TRACK reads the type, and only type 5 (R221). -/
theorem outOverrides_of_ne {t t' : Byte} (ht : t ≠ 5) (ht' : t' ≠ 5) (cfg : Params) (o : ExtOut) :
    outOverrides cfg t o = outOverrides cfg t' o := by
  rw [outOverrides, outOverrides, outTrack_of_other cfg (t := t) fun h => ht h.1,
    outTrack_of_other cfg (t := t') fun h => ht' h.1]

/-! ### EXT.DECODE as a whole -/

/-- The record behind EXT.SUBID and EXT.EXCLUDE of a message that has an id and is not excluded. -/
def identified (cfg : Params) (sub : Half) : ExtOut :=
  { ExtOut.empty with subId := sub, subIdValid := true, cls := classOf cfg sub }

/-- A message with an id that is not excluded runs through all steps (R180, R182). -/
theorem decodeOut_of_not_excluded {cfg : Params} {f : Frame} (hlen : 2 ≤ f.payload.length)
    (hex : cfg.exclude.contains (be16 (byteAt f.payload 0) (byteAt f.payload 1)) = false) (ch : Chan) :
    decodeOut cfg ch f =
      { outSteps cfg ch f (identified cfg (be16 (byteAt f.payload 0) (byteAt f.payload 1))) with
        sequence := some f.sequence } := by
  have hid : outExclude cfg (outSubid cfg f.payload .empty) =
      identified cfg (be16 (byteAt f.payload 0) (byteAt f.payload 1)) := by
    have hnot : excludes cfg (outSubid cfg f.payload .empty) = false := by
      rw [outSubid_of_le cfg hlen]
      exact hex
    rw [outExclude, hnot, outSubid_of_le cfg hlen]
    rfl
  rcases decodeOut_cases cfg ch f with ⟨hsup, -⟩ | ⟨-, hout⟩
  · rw [hid] at hsup
    cases hsup
  · rw [hout, hid, outBody_eq]

/-- Settles O55: type 3 and type 2 give records that differ in the kind alone before the overrides, which do not see it
(`writesShown_outOverrides`); then EXT.ACK writes `value` alone. -/
theorem ackOverridesAnyLayout : Obligations.AckOverridesAnyLayout := by
  intro s ch f i1 i0 c1 c0 rest htype hpay hex
  have hdecode (t : Byte) := decodeOut_of_not_excluded (cfg := s.cfg) (f := { f with type := t }) (by simp [hpay])
    (by simpa [hpay, byteAt] using hex) ch
  have hf : f = { f with type := 3 } := by rw [← htype]
  set o := identified s.cfg (be16 (byteAt f.payload 0) (byteAt f.payload 1))
  set g := outDir ch (outTag s.cfg f.payload o)
  obtain ⟨v, d, hover⟩ := writesShown_outOverrides s.cfg 3 g
  have hgeneric (t : Byte) (ht : t ≠ 1) :
      outGenericSteps s.cfg ch { f with type := t } o = { g with tkind := some (tkindOf t) } := by
    rw [outGenericSteps, outValreq_of_not fun h => ht h.1]
    rfl
  refine ⟨_, _, exec_extDecode ch f s, exec_extDecode ch _ s, ?_⟩
  simp only [State.returning_ext, State.setExt_ext]
  rw [hf, hdecode 3, hdecode 2, outSteps, outSteps, hgeneric 3 (by decide), hgeneric 2 (by decide),
    outOverrides_of_ne (t := 2) (t' := 3) (by decide) (by decide), hover, hover, outAck_of_ack (by simp [hpay]),
    outAck_of_not (.inl (show (2 : Byte) ≠ 3 by decide))]
  refine ⟨?_, rfl, rfl⟩
  rw [hpay]
  rfl

theorem be32_be32Bytes (w : Long) :
    be32 (w.extractLsb' 24 8) (w.extractLsb' 16 8) (w.extractLsb' 8 8) (w.extractLsb' 0 8) = w := by
  refine BitVec.eq_of_getLsbD_eq fun i hi => ?_
  simp only [be32, BitVec.getLsbD_append, BitVec.getLsbD_extractLsb']
  split_ifs with h1 h2 h3
  · simp [h1]
  · simp [h2, show 8 + (i - 8) = i by omega]
  · simp [h3, show 16 + (i - 8 - 8) = i by omega]
  · simp [show i - 8 - 8 - 8 < 8 by omega, show 24 + (i - 8 - 8 - 8) = i by omega]

/-- The generic value's bytes are read back by the decoder of its kind (R89, R90). -/
theorem genericOf_genericBytes {g : Generic} (hg : GenericFits g) : genericOf (genericKind g) (genericBytes g) = some g := by
  cases g with
  | u8 v => rfl
  | u16 v => exact congrArg (some ∘ Generic.u16) (Sys2Proof.Laws.be16_be16Bytes v)
  | u32 v => exact congrArg (some ∘ Generic.u32) (be32_be32Bytes v)
  | void => rfl
  | bool b => cases b <;> rfl
  | blob1 b ok =>
    obtain ⟨hlen, hok⟩ := hg
    have hblob := blobOf_be16Bytes (b := b) (by omega) []
    rw [List.append_nil] at hblob
    rw [genericKind, genericBytes, genericOf, hblob, Option.map_some, hok]
  | blob2 b =>
    have hlen : b.length ≤ 65530 := hg
    have hblob := blobOf_be16Bytes (b := b) (by omega) []
    rw [List.append_nil] at hblob
    rw [genericKind, genericBytes, genericOf, hblob, Option.map_some]

/-- EXT.TAG on the payload of a generic value shows that value. -/
theorem outTag_genericBytes {cfg : Params} (hwire : cfg.wire = defaultWire) {g : Generic} (hg : GenericFits g) (sub : Half)
    (o : ExtOut) :
    outTag cfg (payloadBytes sub (tagByte defaultWire (genericKind g)) (genericBytes g)) o =
      { o with generic := some g, value := .gen g } := by
  rw [outTag_payloadBytes, hwire, tagKind_defaultWire]
  exact outGeneric_of_some (genericOf_genericBytes hg) _ o

/-- What EXT.DECODE extracts from the payload of a generic value (R180 to R198). -/
theorem decodeOut_generic {cfg : Params} (hwire : cfg.wire = defaultWire) {g : Generic} (hg : GenericFits g) {sub : Half}
    (hex : cfg.exclude.contains sub = false) (ch : Chan) {f : Frame}
    (hpay : f.payload = payloadBytes sub (tagByte defaultWire (genericKind g)) (genericBytes g)) :
    let o := decodeOut cfg ch f
    o.subId = sub ∧ o.subIdValid = true ∧ o.generic = some g ∧ o.sequence = some f.sequence ∧ o.dir = some (dirOf ch) ∧
      (classOf cfg sub = .none → f.type ≠ 3 → o.value = .gen g) := by
  have hid : be16 (byteAt f.payload 0) (byteAt f.payload 1) = sub := by
    rw [hpay]
    exact be16_byteAt_be16Bytes sub _
  have hdecode := decodeOut_of_not_excluded (cfg := cfg) (f := f) (by simp [hpay, payloadBytes, be16Bytes])
    (by rw [hid]; exact hex) ch
  rw [hid] at hdecode
  have hgeneric : outGenericSteps cfg ch f (identified cfg sub) =
      { identified cfg sub with
        generic := some g, value := .gen g, dir := some (dirOf ch), tkind := some (tkindOf f.type) } := by
    obtain ⟨v, hval⟩ := outValreq_cases f.type f.payload.length (identified cfg sub)
    rw [outGenericSteps, hval, hpay, outTag_genericBytes hwire hg]
    rfl
  obtain ⟨v, d, hover⟩ := writesShown_outOverrides cfg f.type
    { identified cfg sub with generic := some g, value := .gen g, dir := some (dirOf ch) }
  obtain ⟨v', hack⟩ := outAck_cases f.type f.payload (outOverrides cfg f.type (outGenericSteps cfg ch f (identified cfg sub)))
  intro o
  have ho : o = { identified cfg sub with
      generic := some g, value := v', dir := some (dirOf ch), tkind := some (tkindOf f.type), detail := d,
      sequence := some f.sequence } := by
    simp only [o, hdecode, outSteps]
    rw [hack, hgeneric, hover]
  refine ⟨by rw [ho]; rfl, by rw [ho]; rfl, by rw [ho], by rw [ho], by rw [ho], fun hcls htype => ?_⟩
  have hnone : (outGenericSteps cfg ch f (identified cfg sub)).cls = .none := by
    rw [hgeneric]
    exact hcls
  simp only [o, hdecode, outSteps]
  rw [outOverrides_of_none cfg f.type hnone, outAck_of_not (.inl htype), hgeneric]

/-- Settles O57: `decodeOut_generic` on the record EXT.DECODE writes. -/
theorem genericValueRoundTrip : Obligations.GenericValueRoundTrip := by
  intro s ch sub g seq type raw hwire hg hex p
  obtain ⟨hid, hvalid, hgen, hseq, -, hval⟩ := decodeOut_generic hwire hg hex ch
    (f := { sequence := seq, type := type, payload := p, raw := raw }) rfl
  exact ⟨_, exec_extDecode ch _ s, hid, hvalid, hgen, hseq, hval⟩

/-- A payload of id, tag and generic value fits a frame (R25). -/
theorem length_payloadBytes_le {g : Generic} (hg : GenericFits g) (sub : Half) (tag : Byte) :
    (payloadBytes sub tag (genericBytes g)).length ≤ 65535 := by
  have hbytes : (genericBytes g).length ≤ 65532 := by
    cases g with
    | u8 v | u16 v | u32 v | void | bool b => simp [genericBytes, be16Bytes, be32Bytes]
    | blob1 b ok =>
      have hlen : b.length ≤ 65530 := hg.1
      simp only [genericBytes, be16Bytes, List.length_append, List.length_cons, List.length_nil]
      omega
    | blob2 b =>
      have hlen : b.length ≤ 65530 := hg
      simp only [genericBytes, be16Bytes, List.length_append, List.length_cons, List.length_nil]
      omega
  simp only [payloadBytes, be16Bytes, List.length_append, List.length_cons, List.length_nil]
  omega

/-- Settles O58: the frame is pushed as it was built (`frameRoundTrip`), FRM.TAKE returns it, and EXT.DECODE reads its payload
(`decodeOut_generic`) under the parameters no operation has written. -/
theorem wireToFieldEndToEnd : Obligations.WireToFieldEndToEnd := by
  intro s ch sub g seq type hwire hg hex hbuf hready p
  obtain ⟨t, hadd, htready, -, -, -⟩ := frameRoundTrip s ch seq type p hbuf (length_payloadBytes_le hg sub _)
  rw [hready, List.nil_append] at htready
  have hcfg : t.cfg = s.cfg := parametersAreNeverWritten _ _ _ hadd
  set fr : Frame := { sequence := seq, type := type, payload := p, raw := frameBytes s.cfg seq type p }
  have htake := exec_frmTake ch t
  set u := (t.setFrm ch { t.frm ch with ready := [] }).returning (.frames (t.frm ch).ready) with hu
  have hucfg : u.cfg = s.cfg := by rw [hu, State.returning_cfg, State.setFrm_cfg, hcfg]
  obtain ⟨hid, -, hgen, hseq, hdir, -⟩ := decodeOut_generic (hucfg ▸ hwire) hg (hucfg ▸ hex) ch (f := fr) rfl
  refine ⟨u, _, fr, ?_, congrArg Ret.frames htready, exec_extDecode ch fr u, hgen, hid, hseq, ?_⟩
  · rw [execAll_cons_of_next hadd, execAll_singleton_of_next htake]
  · refine hdir.trans ?_
    cases ch <;> rfl

end Sys2Proof.Machine
end
